-- ==== Sys2Proof/Word.lean ====
section
/-! DEFINITION. The word types of the machine (rule R4: REG_BITS, I_BITS, PC_BITS; rule R61: field widths). -/

namespace Sys2Proof

/-- A register, timer or memory byte: 8 bits (R4 `REG_BITS`). -/
abbrev Byte := BitVec 8

/-- An opcode word, I, PC or a call-stack entry: 16 bits (R4 `I_BITS`, `PC_BITS`; R60). -/
abbrev Word := BitVec 16

/-- A 4-bit operand field: a register number X or Y, or the sprite height N (R61). -/
abbrev Nibble := BitVec 4

/-- The 12-bit operand field NNN (R61). -/
abbrev Addr := BitVec 12

end Sys2Proof
end

