-- ==== Sys2Proof/Syntax.lean ====
section
/-! DEFINITION. The instructions: one constructor per row of rule R70, in the table's order. Operands have
exactly the width of their field (R61, R63), so no term can hold an operand the encoding lacks. -/

namespace Sys2Proof

/-- The 34 recognised instructions (R70). `x`, `y` are register numbers, `nn` an 8-bit immediate, `nnn` a
12-bit address, `n` a sprite height. -/
inductive Instr where
  /-- 00E0 (R150): clear the framebuffer. -/
  | cls
  /-- 00EE (R100): return. -/
  | ret
  /-- 1NNN (R101): jump. -/
  | jpNnn (nnn : Addr)
  /-- 2NNN (R102): call. -/
  | callNnn (nnn : Addr)
  /-- 3XNN (R103): skip if VX equals NN. -/
  | seVxNn (x : Nibble) (nn : Byte)
  /-- 4XNN (R104): skip if VX differs from NN. -/
  | sneVxNn (x : Nibble) (nn : Byte)
  /-- 5XY0 (R105): skip if VX equals VY. -/
  | seVxVy (x y : Nibble)
  /-- 6XNN (R120): load immediate. -/
  | ldVxNn (x : Nibble) (nn : Byte)
  /-- 7XNN (R121): add immediate, no flag. -/
  | addVxNn (x : Nibble) (nn : Byte)
  /-- 8XY0 (R122): register move. -/
  | ldVxVy (x y : Nibble)
  /-- 8XY1 (R123): OR. -/
  | orVxVy (x y : Nibble)
  /-- 8XY2 (R124): AND. -/
  | andVxVy (x y : Nibble)
  /-- 8XY3 (R125): XOR. -/
  | xorVxVy (x y : Nibble)
  /-- 8XY4 (R126): add with carry flag. -/
  | addVxVy (x y : Nibble)
  /-- 8XY5 (R127): subtract with flag. -/
  | subVxVy (x y : Nibble)
  /-- 8XY6 (R128): shift VY right by one, copy to VX. -/
  | shrVxVy (x y : Nibble)
  /-- 8XY7 (R129): reverse subtract with flag. -/
  | subnVxVy (x y : Nibble)
  /-- 8XYE (R130): shift VY left by one, copy to VX. -/
  | shlVxVy (x y : Nibble)
  /-- 9XY0 (R106): skip if VX differs from VY. -/
  | sneVxVy (x y : Nibble)
  /-- ANNN (R140): load I. -/
  | ldINnn (nnn : Addr)
  /-- BNNN (R107): jump to NNN plus V0. -/
  | jpV0Nnn (nnn : Addr)
  /-- CXNN (R131): random byte AND NN. -/
  | rndVxNn (x : Nibble) (nn : Byte)
  /-- DXYN (R151): draw an N-byte sprite. -/
  | drwVxVyN (x y n : Nibble)
  /-- EX9E (R160): skip if key VX is pressed. -/
  | skpVx (x : Nibble)
  /-- EXA1 (R161): skip if key VX is not pressed. -/
  | sknpVx (x : Nibble)
  /-- FX07 (R163): read the delay timer. -/
  | ldVxDt (x : Nibble)
  /-- FX0A (R162): wait for a key by retrying. -/
  | ldVxK (x : Nibble)
  /-- FX15 (R164): write the delay timer. -/
  | ldDtVx (x : Nibble)
  /-- FX18 (R165): write the sound timer. -/
  | ldStVx (x : Nibble)
  /-- FX1E (R141): add VX to I. -/
  | addIVx (x : Nibble)
  /-- FX29 (R142): point I at a glyph. -/
  | ldFVx (x : Nibble)
  /-- FX33 (R143): store the decimal digits of VX. -/
  | ldBVx (x : Nibble)
  /-- FX55 (R144): store V0..VX, advance I. -/
  | ldMemVx (x : Nibble)
  /-- FX65 (R145): load V0..VX, advance I. -/
  | ldVxMem (x : Nibble)
  deriving DecidableEq, Repr

end Sys2Proof
end

