-- ==== Sys2Proof/WellFormed.lean ====
section
/-! DEFINITION. Well-formed words: the table of rule R70 as data, and the check that a 16-bit word is one of
its instructions. An `Instr` needs no check of its own: its operand types are exactly the field widths of R61. -/

namespace Sys2Proof

/-- One row of R70: "a word `op` is the instruction of a row exactly when `op & mask == match`". -/
structure OpcodeRow where
  pattern : String
  mask    : Word
  bits    : Word
  deriving DecidableEq, Repr

/-- The check of one row on one word (R70). -/
def OpcodeRow.matches (r : OpcodeRow) (op : Word) : Bool :=
  op &&& r.mask == r.bits

/-- The row of R70 an instruction belongs to. -/
def Instr.row : Instr → OpcodeRow
  | .cls => ⟨"00E0", 0xFFFF#16, 0x00E0#16⟩
  | .ret => ⟨"00EE", 0xFFFF#16, 0x00EE#16⟩
  | .jpNnn _ => ⟨"1NNN", 0xF000#16, 0x1000#16⟩
  | .callNnn _ => ⟨"2NNN", 0xF000#16, 0x2000#16⟩
  | .seVxNn _ _ => ⟨"3XNN", 0xF000#16, 0x3000#16⟩
  | .sneVxNn _ _ => ⟨"4XNN", 0xF000#16, 0x4000#16⟩
  | .seVxVy _ _ => ⟨"5XY0", 0xF00F#16, 0x5000#16⟩
  | .ldVxNn _ _ => ⟨"6XNN", 0xF000#16, 0x6000#16⟩
  | .addVxNn _ _ => ⟨"7XNN", 0xF000#16, 0x7000#16⟩
  | .ldVxVy _ _ => ⟨"8XY0", 0xF00F#16, 0x8000#16⟩
  | .orVxVy _ _ => ⟨"8XY1", 0xF00F#16, 0x8001#16⟩
  | .andVxVy _ _ => ⟨"8XY2", 0xF00F#16, 0x8002#16⟩
  | .xorVxVy _ _ => ⟨"8XY3", 0xF00F#16, 0x8003#16⟩
  | .addVxVy _ _ => ⟨"8XY4", 0xF00F#16, 0x8004#16⟩
  | .subVxVy _ _ => ⟨"8XY5", 0xF00F#16, 0x8005#16⟩
  | .shrVxVy _ _ => ⟨"8XY6", 0xF00F#16, 0x8006#16⟩
  | .subnVxVy _ _ => ⟨"8XY7", 0xF00F#16, 0x8007#16⟩
  | .shlVxVy _ _ => ⟨"8XYE", 0xF00F#16, 0x800E#16⟩
  | .sneVxVy _ _ => ⟨"9XY0", 0xF00F#16, 0x9000#16⟩
  | .ldINnn _ => ⟨"ANNN", 0xF000#16, 0xA000#16⟩
  | .jpV0Nnn _ => ⟨"BNNN", 0xF000#16, 0xB000#16⟩
  | .rndVxNn _ _ => ⟨"CXNN", 0xF000#16, 0xC000#16⟩
  | .drwVxVyN _ _ _ => ⟨"DXYN", 0xF000#16, 0xD000#16⟩
  | .skpVx _ => ⟨"EX9E", 0xF0FF#16, 0xE09E#16⟩
  | .sknpVx _ => ⟨"EXA1", 0xF0FF#16, 0xE0A1#16⟩
  | .ldVxDt _ => ⟨"FX07", 0xF0FF#16, 0xF007#16⟩
  | .ldVxK _ => ⟨"FX0A", 0xF0FF#16, 0xF00A#16⟩
  | .ldDtVx _ => ⟨"FX15", 0xF0FF#16, 0xF015#16⟩
  | .ldStVx _ => ⟨"FX18", 0xF0FF#16, 0xF018#16⟩
  | .addIVx _ => ⟨"FX1E", 0xF0FF#16, 0xF01E#16⟩
  | .ldFVx _ => ⟨"FX29", 0xF0FF#16, 0xF029#16⟩
  | .ldBVx _ => ⟨"FX33", 0xF0FF#16, 0xF033#16⟩
  | .ldMemVx _ => ⟨"FX55", 0xF0FF#16, 0xF055#16⟩
  | .ldVxMem _ => ⟨"FX65", 0xF0FF#16, 0xF065#16⟩

/-- The opcode map of R70, 34 rows in the spec's order (the operands of the instruction do not matter to its row). -/
def opcodeRows : List OpcodeRow :=
  [.cls, .ret, .jpNnn 0, .callNnn 0, .seVxNn 0 0, .sneVxNn 0 0, .seVxVy 0 0, .ldVxNn 0 0, .addVxNn 0 0,
    .ldVxVy 0 0, .orVxVy 0 0, .andVxVy 0 0, .xorVxVy 0 0, .addVxVy 0 0, .subVxVy 0 0, .shrVxVy 0 0,
    .subnVxVy 0 0, .shlVxVy 0 0, .sneVxVy 0 0, .ldINnn 0, .jpV0Nnn 0, .rndVxNn 0 0, .drwVxVyN 0 0 0,
    .skpVx 0, .sknpVx 0, .ldVxDt 0, .ldVxK 0, .ldDtVx 0, .ldStVx 0, .addIVx 0, .ldFVx 0, .ldBVx 0,
    .ldMemVx 0, .ldVxMem 0].map Instr.row

/-- A word is well formed when it is recognised: it matches a row of R70. Every other word is unrecognised (R71). -/
def recognised (op : Word) : Bool :=
  opcodeRows.any (·.matches op)

end Sys2Proof
end

