-- ==== Sys2Proof/Decode.lean ====
section
/-! DEFINITION. The decoder of rule R74, total on words and on byte sequences, and the encoder written from the
layouts of rules R61, R62 and the function codes of R70. -/

namespace Sys2Proof

/-! ### Fields of an opcode word (R61) -/

/-- `T = op[15:12]`. -/
def fieldT (op : Word) : Nibble := op.extractLsb' 12 4

/-- `X = op[11:8]`. -/
def fieldX (op : Word) : Nibble := op.extractLsb' 8 4

/-- `Y = op[7:4]`. -/
def fieldY (op : Word) : Nibble := op.extractLsb' 4 4

/-- `N = op[3:0]`. -/
def fieldN (op : Word) : Nibble := op.extractLsb' 0 4

/-- `NN = op[7:0]`. -/
def fieldNN (op : Word) : Byte := op.extractLsb' 0 8

/-- `NNN = op[11:0]`. -/
def fieldNNN (op : Word) : Addr := op.extractLsb' 0 12

/-! ### Decoding (R64 to R71, R74) -/

/-- What R74 answers: "The decoder is total on all 65536 words: "invalid" is never an outcome,
`Unrecognised(op)` is." -/
inductive Decoded where
  /-- The word is this instruction. -/
  | instr (i : Instr)
  /-- The word matches no row of R70 (R71). -/
  | unrecognised (op : Word)
  deriving DecidableEq, Repr

/-- Family 0 (R65): the whole word is compared. -/
def decodeFamily0 (op : Word) : Decoded :=
  if op = 0x00E0#16 then .instr .cls
  else if op = 0x00EE#16 then .instr .ret
  else .unrecognised op

/-- Family 5 (R69): the low nibble must be 0. -/
def decodeFamily5 (op : Word) : Decoded :=
  if fieldN op = 0#4 then .instr (.seVxVy (fieldX op) (fieldY op)) else .unrecognised op

/-- Family 8 (R66): sub-dispatch on the low nibble. -/
def decodeFamily8 (op : Word) : Decoded :=
  match (fieldN op).toNat with
  | 0x0 => .instr (.ldVxVy (fieldX op) (fieldY op))
  | 0x1 => .instr (.orVxVy (fieldX op) (fieldY op))
  | 0x2 => .instr (.andVxVy (fieldX op) (fieldY op))
  | 0x3 => .instr (.xorVxVy (fieldX op) (fieldY op))
  | 0x4 => .instr (.addVxVy (fieldX op) (fieldY op))
  | 0x5 => .instr (.subVxVy (fieldX op) (fieldY op))
  | 0x6 => .instr (.shrVxVy (fieldX op) (fieldY op))
  | 0x7 => .instr (.subnVxVy (fieldX op) (fieldY op))
  | 0xE => .instr (.shlVxVy (fieldX op) (fieldY op))
  | _ => .unrecognised op

/-- Family 9 (R69): the low nibble must be 0. -/
def decodeFamily9 (op : Word) : Decoded :=
  if fieldN op = 0#4 then .instr (.sneVxVy (fieldX op) (fieldY op)) else .unrecognised op

/-- Family E (R67): sub-dispatch on the low byte. -/
def decodeFamilyE (op : Word) : Decoded :=
  if fieldNN op = 0x9E#8 then .instr (.skpVx (fieldX op))
  else if fieldNN op = 0xA1#8 then .instr (.sknpVx (fieldX op))
  else .unrecognised op

/-- Family F (R68): sub-dispatch on the low byte. -/
def decodeFamilyF (op : Word) : Decoded :=
  if fieldNN op = 0x07#8 then .instr (.ldVxDt (fieldX op))
  else if fieldNN op = 0x0A#8 then .instr (.ldVxK (fieldX op))
  else if fieldNN op = 0x15#8 then .instr (.ldDtVx (fieldX op))
  else if fieldNN op = 0x18#8 then .instr (.ldStVx (fieldX op))
  else if fieldNN op = 0x1E#8 then .instr (.addIVx (fieldX op))
  else if fieldNN op = 0x29#8 then .instr (.ldFVx (fieldX op))
  else if fieldNN op = 0x33#8 then .instr (.ldBVx (fieldX op))
  else if fieldNN op = 0x55#8 then .instr (.ldMemVx (fieldX op))
  else if fieldNN op = 0x65#8 then .instr (.ldVxMem (fieldX op))
  else .unrecognised op

/-- The whole decoder (R74): primary dispatch on the top nibble (R64). -/
def decode (op : Word) : Decoded :=
  match (fieldT op).toNat with
  | 0x0 => decodeFamily0 op
  | 0x1 => .instr (.jpNnn (fieldNNN op))
  | 0x2 => .instr (.callNnn (fieldNNN op))
  | 0x3 => .instr (.seVxNn (fieldX op) (fieldNN op))
  | 0x4 => .instr (.sneVxNn (fieldX op) (fieldNN op))
  | 0x5 => decodeFamily5 op
  | 0x6 => .instr (.ldVxNn (fieldX op) (fieldNN op))
  | 0x7 => .instr (.addVxNn (fieldX op) (fieldNN op))
  | 0x8 => decodeFamily8 op
  | 0x9 => decodeFamily9 op
  | 0xA => .instr (.ldINnn (fieldNNN op))
  | 0xB => .instr (.jpV0Nnn (fieldNNN op))
  | 0xC => .instr (.rndVxNn (fieldX op) (fieldNN op))
  | 0xD => .instr (.drwVxVyN (fieldX op) (fieldY op) (fieldN op))
  | 0xE => decodeFamilyE op
  | _ => decodeFamilyF op

/-! ### Byte sequences (R45, R60) -/

/-- The opcode of two consecutive bytes, the first the more significant (R45): `hi ++ lo`. -/
def wordOfBytes (hi lo : Byte) : Word := hi ++ lo

/-- The two bytes of a word as the memory holds them, the high byte at the lower address (R45). -/
def bytesOfWord (op : Word) : List Byte := [op.extractLsb' 8 8, op.extractLsb' 0 8]

/-- Why a byte sequence does not begin with an instruction. -/
inductive DecodeError where
  /-- Fewer than two bytes are left: "Every instruction is exactly 16 bits" (R60). -/
  | tooShort
  /-- The first word is unrecognised (R71). -/
  | unrecognised (op : Word)
  deriving DecidableEq, Repr

/-- The instruction a byte sequence begins with, and the bytes after it (R60, R72: always two bytes). -/
def decodeBytes : List Byte → Except DecodeError (Instr × List Byte)
  | hi :: lo :: rest =>
    match decode (wordOfBytes hi lo) with
    | .instr i => .ok (i, rest)
    | .unrecognised op => .error (.unrecognised op)
  | [_] => .error .tooShort
  | [] => .error .tooShort

/-- The instruction the decoder reads from a row of the opcode table: a word of `nbits` bits, bit 0 its least
significant bit, laid out high byte first (R45) and given to `decodeBytes`; bits above `nbits` are 0. -/
def decodeTableWord (nbits w : Nat) : Option Instr :=
  match decodeBytes (bytesOfWord (BitVec.ofNat 16 (w % 2 ^ nbits))) with
  | .ok (i, _) => some i
  | .error _ => none

/-! ### Encoding (R61, R62, R70) -/

/-- Format `NNN` of R62. -/
def formatNNN (t : Nibble) (nnn : Addr) : Word := t ++ nnn

/-- Format `XNN` of R62. -/
def formatXNN (t x : Nibble) (nn : Byte) : Word := t ++ (x ++ nn : BitVec 12)

/-- Formats `XYF` and `XYN` of R62: `n` is the function nibble or the sprite height. -/
def formatXYN (t x y n : Nibble) : Word := t ++ (x ++ (y ++ n : BitVec 8) : BitVec 12)

/-- Format `XFF` of R62: `f` is the function byte. -/
def formatXFF (t x : Nibble) (f : Byte) : Word := t ++ (x ++ f : BitVec 12)

/-- The word of an instruction, from R70's patterns. -/
def encode : Instr → Word
  | .cls => 0x00E0#16
  | .ret => 0x00EE#16
  | .jpNnn nnn => formatNNN 0x1#4 nnn
  | .callNnn nnn => formatNNN 0x2#4 nnn
  | .seVxNn x nn => formatXNN 0x3#4 x nn
  | .sneVxNn x nn => formatXNN 0x4#4 x nn
  | .seVxVy x y => formatXYN 0x5#4 x y 0x0#4
  | .ldVxNn x nn => formatXNN 0x6#4 x nn
  | .addVxNn x nn => formatXNN 0x7#4 x nn
  | .ldVxVy x y => formatXYN 0x8#4 x y 0x0#4
  | .orVxVy x y => formatXYN 0x8#4 x y 0x1#4
  | .andVxVy x y => formatXYN 0x8#4 x y 0x2#4
  | .xorVxVy x y => formatXYN 0x8#4 x y 0x3#4
  | .addVxVy x y => formatXYN 0x8#4 x y 0x4#4
  | .subVxVy x y => formatXYN 0x8#4 x y 0x5#4
  | .shrVxVy x y => formatXYN 0x8#4 x y 0x6#4
  | .subnVxVy x y => formatXYN 0x8#4 x y 0x7#4
  | .shlVxVy x y => formatXYN 0x8#4 x y 0xE#4
  | .sneVxVy x y => formatXYN 0x9#4 x y 0x0#4
  | .ldINnn nnn => formatNNN 0xA#4 nnn
  | .jpV0Nnn nnn => formatNNN 0xB#4 nnn
  | .rndVxNn x nn => formatXNN 0xC#4 x nn
  | .drwVxVyN x y n => formatXYN 0xD#4 x y n
  | .skpVx x => formatXFF 0xE#4 x 0x9E#8
  | .sknpVx x => formatXFF 0xE#4 x 0xA1#8
  | .ldVxDt x => formatXFF 0xF#4 x 0x07#8
  | .ldVxK x => formatXFF 0xF#4 x 0x0A#8
  | .ldDtVx x => formatXFF 0xF#4 x 0x15#8
  | .ldStVx x => formatXFF 0xF#4 x 0x18#8
  | .addIVx x => formatXFF 0xF#4 x 0x1E#8
  | .ldFVx x => formatXFF 0xF#4 x 0x29#8
  | .ldBVx x => formatXFF 0xF#4 x 0x33#8
  | .ldMemVx x => formatXFF 0xF#4 x 0x55#8
  | .ldVxMem x => formatXFF 0xF#4 x 0x65#8

/-- The bytes of an instruction as a program image holds them (R45). -/
def encodeBytes (i : Instr) : List Byte := bytesOfWord (encode i)

end Sys2Proof
end

