-- ==== Sys2Proof/Config.lean ====
section
/-! DEFINITION. The fixed parameters of rule R4, and the one free value of the machine: the random draws (R5 `RND`). -/

namespace Sys2Proof.Config

/-- R4 `MEM_SIZE`: bytes of the one memory. -/
abbrev memSize : Nat := 4096

/-- R4 `FONT_SIZE`: bytes of the built-in font, at addresses 0..79. -/
abbrev fontSize : Nat := 80

/-- R4 `PROG_BASE`: where Load puts an image, and PC after reset. -/
abbrev progBase : Nat := 512

/-- R4 `PROG_MAX`: the longest image Load accepts. -/
abbrev progMax : Nat := 3584

/-- R4 `FB_W`: framebuffer width in pixels. -/
abbrev fbWidth : Nat := 64

/-- R4 `FB_H`: framebuffer height in pixels. -/
abbrev fbHeight : Nat := 32

/-- R4 `FB_CELLS`: cells of the framebuffer. -/
abbrev fbCells : Nat := 2048

/-- R5 `RND`, R131: draw number `n` of the random source. A FREE VALUE: the constant has no body, so nothing
can be proved of any draw, "not even that two draws differ" (log 3). -/
opaque rnd : Nat → Byte

end Sys2Proof.Config
end

