-- ==== Sys2Proof/Machine/Params.lean ====
section
/-! DEFINITION. The type of the open parameter FONT, and the defaults of the two open parameters FONT and STACK_DEPTH
of rule R5. The defaults are used only in `State.reset`: the machine takes both parameters from its configuration, which
State carries (log 24), so every statement over all states holds for every depth and every font. -/

namespace Sys2Proof.Machine

/-- R5 `FONT`: "the 80 bytes placed at addresses 0..79 at reset", any 80 bytes. -/
abbrev Font := Vector Byte Config.fontSize

/-- R5, R22 `FONT`: the default 80 bytes, glyph `d` at `5*d`. PRESUMED (log 2): the customary Chip-8 font, which the
spec marks as general knowledge. -/
def defaultFontBytes : List Byte :=
  [0xF0#8, 0x90#8, 0x90#8, 0x90#8, 0xF0#8] ++ [0x20#8, 0x60#8, 0x20#8, 0x20#8, 0x70#8]
    ++ [0xF0#8, 0x10#8, 0xF0#8, 0x80#8, 0xF0#8] ++ [0xF0#8, 0x10#8, 0xF0#8, 0x10#8, 0xF0#8]
    ++ [0x90#8, 0x90#8, 0xF0#8, 0x10#8, 0x10#8] ++ [0xF0#8, 0x80#8, 0xF0#8, 0x10#8, 0xF0#8]
    ++ [0xF0#8, 0x80#8, 0xF0#8, 0x90#8, 0xF0#8] ++ [0xF0#8, 0x10#8, 0x20#8, 0x40#8, 0x40#8]
    ++ [0xF0#8, 0x90#8, 0xF0#8, 0x90#8, 0xF0#8] ++ [0xF0#8, 0x90#8, 0xF0#8, 0x10#8, 0xF0#8]
    ++ [0xF0#8, 0x90#8, 0xF0#8, 0x90#8, 0x90#8] ++ [0xE0#8, 0x90#8, 0xE0#8, 0x90#8, 0xE0#8]
    ++ [0xF0#8, 0x80#8, 0x80#8, 0x80#8, 0xF0#8] ++ [0xE0#8, 0x90#8, 0x90#8, 0x90#8, 0xE0#8]
    ++ [0xF0#8, 0x80#8, 0xF0#8, 0x80#8, 0xF0#8] ++ [0xF0#8, 0x80#8, 0xF0#8, 0x80#8, 0x80#8]

/-- The default FONT as a parameter value. -/
def defaultFont : Font := ⟨defaultFontBytes.toArray, rfl⟩

/-- R5 `STACK_DEPTH`: the default number of call-stack entries. PRESUMED (log 1): the customary Chip-8 depth, which
the spec marks as general knowledge. -/
def defaultStackDepth : Nat := 16

end Sys2Proof.Machine
end

