-- ==== Sys2Proof/Machine/State.lean ====
section
/-! DEFINITION. The architectural state (rules R10 to R22), as plain data, and its reset value (R26). -/

namespace Sys2Proof.Machine

/-- FAULT, the sticky fault status (R20): an enumerated value with codes 0, 1, 2. -/
inductive FaultStatus where
  /-- Code 0: no fault. -/
  | none
  /-- Code 1 (R171): a 00EE found the call stack empty. -/
  | stackUnderflow
  /-- Code 2 (R172): a 2NNN found the call stack full. -/
  | stackOverflow
  deriving DecidableEq, Repr

/-- Reasons for a step to stop the model's machine. There are none: a Step "has exactly one of two outcomes, a next
state with `FAULT == 0` or a next state with `FAULT != 0`" (R91), so the two stack faults of R170 are next
states whose `fault` field is set (log 8), and no memory access faults (R42, R56). -/
inductive Fault where
  deriving DecidableEq, Repr

/-- Refusals. -/
inductive Refusal where
  /-- Raised only by a refused arm of `exec`, for an instruction without a meaning: every arm has one, so nothing
  raises it. Safe: nothing can be proved past it. -/
  | notModelled (mnemonic : String)
  deriving DecidableEq, Repr

/-- The state of the CORE with the key flags at its boundary (R26 lists the spec's pieces). -/
structure State where
  /-- V0..VF (R10). -/
  v : Vector Byte 16
  /-- I (R12). -/
  i : Word
  /-- PC (R13). -/
  pc : Word
  /-- The valid call-stack entries `STACK[0 .. SP-1]`, last pushed first; SP is the length (R14; log 19). -/
  stack : List Word
  /-- The entries that are not valid, `STACK[SP], STACK[SP+1], ..` (R14; log 19). -/
  stackFree : List Word
  /-- DT, the delay timer (R15). -/
  dt : Byte
  /-- ST, the sound timer (R16). -/
  st : Byte
  /-- The parameter FONT (R5, R23): configuration, set when the machine is built and written by nothing (log 24). -/
  font : Font
  /-- MEM (R22), the listed cells in canonical form (`Memory.wf`; log 20). -/
  mem : List Host.Cell
  /-- FB, cell `k` is bit `k` (R17; log 21). -/
  fb : BitVec Config.fbCells
  /-- DU, the display-updated flag (R18). -/
  du : Bool
  /-- KEY, the 16 key flags (R19). -/
  key : Vector Bool 16
  /-- FAULT (R20). -/
  fault : FaultStatus
  /-- DIAG.valid (R21). -/
  diagValid : Bool
  /-- DIAG.opcode (R21), meaningful only while `diagValid`. -/
  diagOpcode : Word
  /-- The MODEL's own field (log 3): how many random draws CXNN has consumed; the next draw is `Config.rnd draws`. -/
  draws : Nat
  deriving DecidableEq, Repr

/-- The reset table R26, for the parameters `font` and `depth` and a random source that has given `draws` draws. No cell of
memory is listed, so it reads as FONT at 0..79 and 0 above (`Memory.unlisted`).
Values the source does not state are DESIGN CHOICES of log 4, log 8 and log 15 (the spec's D17, D9, D21). -/
def State.resetWith (font : Font) (depth draws : Nat) : State where
  v := Vector.replicate 16 0#8
  i := 0#16
  pc := 512#16
  stack := []
  stackFree := List.replicate depth 0#16
  dt := 0#8
  st := 0#8
  font := font
  mem := []
  fb := 0#2048
  du := false
  key := Vector.replicate 16 false
  fault := .none
  diagValid := false
  diagOpcode := 0#16
  draws := draws

/-- The machine right after reset (R26, R200), with the default FONT (log 2) and the default stack depth (log 1). -/
def State.reset : State := State.resetWith defaultFont defaultStackDepth 0

end Sys2Proof.Machine
end

