-- ==== Sys2Proof/Machine/Ops.lean ====
section
/-! DEFINITION. The named operations over registers, memory, the call stack, the framebuffer and the key flags:
the primitives of rule R7, which "are the only ways a rule touches state". -/

namespace Sys2Proof.Machine

/-- What a meaning answers. -/
abbrev Result := Host.Outcome State Fault Refusal

/-- Every address, PC and I is reduced to 12 bits: `v & 0x0FFF` (R12, R13, R42). -/
def mask12 (w : Word) : Word := w &&& 0x0FFF#16

/-! ### Memory (R22, R40, R42) -/

/-- What an address with no listed cell reads as: the reset contents of R22 and R26, the parameter FONT at 0..79 and 0
above. -/
def Memory.unlisted (font : Font) (a : Nat) : Byte :=
  font[a]?.getD 0#8

/-- The byte at an address. -/
def Memory.read (font : Font) : List Host.Cell → Nat → Byte
  | [], a => Memory.unlisted font a
  | c :: cs, a => if c.1 = a then c.2 else Memory.read font cs a

/-- Drop every cell listed at an address. -/
def Memory.erase (m : List Host.Cell) (a : Nat) : List Host.Cell :=
  m.filter (fun c => c.1 != a)

/-- Put a cell in its place among rising addresses. -/
def Memory.insert (c : Host.Cell) : List Host.Cell → List Host.Cell
  | [] => [c]
  | d :: ds => if c.1 < d.1 then c :: d :: ds else d :: Memory.insert c ds

/-- Write the byte at an address, keeping the canonical form: a byte equal to what the unlisted address reads as is
not listed. -/
def Memory.write (font : Font) (m : List Host.Cell) (a : Nat) (b : Byte) : List Host.Cell :=
  if b = Memory.unlisted font a then Memory.erase m a else Memory.insert (a, b) (Memory.erase m a)

/-- One cell of the canonical form: inside the 4096 bytes (R40), and not equal to what an unlisted address reads as. -/
def Memory.cellOk (font : Font) (c : Host.Cell) : Bool :=
  decide (c.1 < Config.memSize) && c.2 != Memory.unlisted font c.1

/-- Addresses strictly rising. -/
def Memory.rising : List Host.Cell → Bool
  | [] => true
  | c :: cs => cs.all (fun d => decide (c.1 < d.1)) && Memory.rising cs

/-- The canonical form of memory. -/
def Memory.wf (font : Font) (m : List Host.Cell) : Bool :=
  Memory.rising m && m.all (Memory.cellOk font)

/-- `MemRead(addr, 1)`: "the byte at address `addr & 0x0FFF`" (R7, R42). -/
def State.memRead (s : State) (addr : Word) : Byte :=
  Memory.read s.font s.mem (mask12 addr).toNat

/-- `MemWrite(addr, 1, v)`: `MEM[addr & 0x0FFF] <- v` (R7, R42). -/
def State.memWrite (s : State) (addr : Word) (b : Byte) : State :=
  { s with mem := Memory.write s.font s.mem (mask12 addr).toNat b }

/-! ### Registers (R10 to R16) -/

/-- `V[i]` (R7, R10). -/
def State.getV (s : State) (r : Nibble) : Byte := s.v[r.toNat]

/-- `V[i] <- v` (R7, R10). -/
def State.setV (s : State) (r : Nibble) (b : Byte) : State :=
  { s with v := s.v.set r.toNat b }

/-- VF, "the machine's only condition flag" (R11). -/
def vF : Nibble := 0xF#4

/-- `I <- v`, masked to 12 bits (R7, R12). -/
def State.setI (s : State) (w : Word) : State := { s with i := mask12 w }

/-- `PC <- target`, masked to 12 bits (R7, R13). -/
def State.setPc (s : State) (w : Word) : State := { s with pc := mask12 w }

/-- `DT <- v` (R7, R15). -/
def State.setDt (s : State) (b : Byte) : State := { s with dt := b }

/-- `ST <- v` (R7, R16). -/
def State.setSt (s : State) (b : Byte) : State := { s with st := b }

/-- `Skip()`: `pc <- PC + 2` (R7, R90). -/
def State.skip (s : State) : State := s.setPc (s.pc + 2#16)

/-- Skip when the condition holds: the shape of every conditional skip (R90, R103 to R106, R160, R161). -/
def State.skipIf (s : State) (cond : Bool) : State := if cond then s.skip else s

/-! ### Call stack and faults (R14, R178) -/

/-- SP: "the number of valid entries" (R14). -/
def State.sp (s : State) : Nat := s.stack.length

/-- STACK_DEPTH: the entries the call stack can hold (R5, R14). -/
def State.stackDepth (s : State) : Nat := s.stack.length + s.stackFree.length

/-- `STACK[k]` for `k` below STACK_DEPTH (R14, R25). -/
def State.stackEntry (s : State) (k : Nat) : Option Word := (s.stack.reverse ++ s.stackFree)[k]?

/-- The code of a fault status (R20). -/
def FaultStatus.code : FaultStatus → Nat
  | .none => 0
  | .stackUnderflow => 1
  | .stackOverflow => 2

/-- `raise F` (R178): `FAULT <- code(F)` and nothing else, "the faulting instruction has no effect at all". The ONE
operation by which a fault is taken; the Step then ends without phase 5 (`State.finish`). No return from a fault
exists (R179). -/
def State.raise (s : State) (f : FaultStatus) : State := { s with fault := f }

/-- `Push(v)` (R14): "if `SP == STACK_DEPTH` then `raise StackOverflow`", that is, when no free entry is left. -/
def State.push (s : State) (w : Word) : Except FaultStatus State :=
  match s.stackFree with
  | [] => .error .stackOverflow
  | _ :: rest => .ok { s with stack := w :: s.stack, stackFree := rest }

/-- `Pop()` (R14): "if `SP == 0` then `raise StackUnderflow`"; the vacated entry keeps its bits. -/
def State.pop (s : State) : Except FaultStatus (Word × State) :=
  match s.stack with
  | [] => .error .stackUnderflow
  | w :: rest => .ok (w, { s with stack := rest, stackFree := w :: s.stackFree })

/-! ### Key flags (R19, R166) -/

/-- `KEY[k]` (R7, R19). -/
def State.keyAt (s : State) (k : Nibble) : Bool := s.key[k.toNat]

/-- `KEY[k] <- b` (R7, R19). -/
def State.setKey (s : State) (k : Nibble) (b : Bool) : State :=
  { s with key := s.key.set k.toNat b }

/-- All 16 flags to 0 (R88). -/
def State.clearKeys (s : State) : State := { s with key := Vector.replicate 16 false }

/-- `IsKeyPressed(c)` (R166): a code above 15 is not pressed and changes nothing (D14; log 12); a pressed flag is
consumed. -/
def State.isKeyPressed (s : State) (c : Byte) : Bool × State :=
  if c.toNat > 15 then (false, s)
  else if s.keyAt (c.setWidth 4) then (true, s.setKey (c.setWidth 4) false)
  else (false, s)

/-- The 16 key numbers in ascending order. -/
def keyNumbers : List Nibble := (List.range 16).map (BitVec.ofNat 4)

/-- `FirstPressedKey()` (R166): the lowest-numbered flag found set (D15; log 13), which is consumed. -/
def State.firstPressedKey (s : State) : Option (Nibble × State) :=
  match keyNumbers.find? s.keyAt with
  | some k => some (k, s.setKey k false)
  | none => none

/-! ### Framebuffer (R17, R18, R151) -/

/-- `FB[k]` (R7, R17). -/
def State.fbAt (s : State) (k : Nat) : Bool := s.fb.getLsbD k

/-- The framebuffer cells and the collision flag during one DXYN (R151). -/
structure Blit where
  fb   : BitVec Config.fbCells
  coll : Bool
  deriving DecidableEq, Repr

/-- One sprite bit of 1 at cell `k` (R151): `if FB[k] == 1 then coll <- 1`, then `FB[k] <- FB[k] ^ 1`. -/
def Blit.toggle (b : Blit) (k : Nat) : Blit :=
  { fb := b.fb ^^^ BitVec.twoPow Config.fbCells k, coll := b.coll || b.fb.getLsbD k }

/-- The cell of sprite position `(col, row)` for start coordinates `(x0, y0)`, wrapped per pixel (R151, R152; D10;
log 9). -/
def pixelCell (x0 y0 col row : Nat) : Nat :=
  (x0 + col) % Config.fbWidth + Config.fbWidth * ((y0 + row) % Config.fbHeight)

/-- The first `n` columns of one sprite row; bit 7 of the byte is the leftmost pixel (R151, R153; D11; log 10). -/
def Blit.columns (byte : Byte) (x0 y0 row : Nat) : Nat → Blit → Blit
  | 0, b => b
  | col + 1, b =>
    let b' := Blit.columns byte x0 y0 row col b
    if byte.getLsbD (7 - col) then b'.toggle (pixelCell x0 y0 col row) else b'

/-- The first `n` rows of a sprite whose row `r` is the byte `sprite r` (R151). -/
def Blit.rows (sprite : Nat → Byte) (x0 y0 : Nat) : Nat → Blit → Blit
  | 0, b => b
  | row + 1, b => Blit.columns (sprite row) x0 y0 row 8 (Blit.rows sprite x0 y0 row b)

/-- Write the framebuffer and set DU, "always" (R150, R151, R155). -/
def State.setDisplay (s : State) (fb : BitVec Config.fbCells) : State := { s with fb := fb, du := true }

/-! ### Random source (R7 `Rnd()`, R131) -/

/-- `Rnd()`: one fresh draw; the counter moves on so that no draw is used twice (log 3). -/
def State.rnd (s : State) : Byte × State := (Config.rnd s.draws, { s with draws := s.draws + 1 })

end Sys2Proof.Machine
end

