-- ==== Sys2Proof/Machine/Cycle.lean ====
section
/-! DEFINITION. The phases of a Step around the instruction (rules R81 to R88). -/

namespace Sys2Proof.Machine

/-- Phase 1, fetch (R82): `op <- MemRead(PC, 1) ++ MemRead(PC + 1, 1)`. -/
def State.fetch (s : State) : Word :=
  wordOfBytes (s.memRead s.pc) (s.memRead (s.pc + 1#16))

/-- Phase 1, advance (R83): `pc <- PC + 2`. -/
def State.advance (s : State) : State := s.setPc (s.pc + 2#16)

/-- Phase 2 (R84): `DU <- 0; DIAG.valid <- 0`. -/
def State.clearStepFlags (s : State) : State := { s with du := false, diagValid := false }

/-- A timer's countdown: by 1 while greater than 0 (R85). -/
def countdown (t : Byte) : Byte := if t.toNat > 0 then t - 1#8 else t

/-- Phase 3 (R85). -/
def State.countTimers (s : State) : State := { s with dt := countdown s.dt, st := countdown s.st }

/-- The state the instruction sees: after phases 1 to 3 (R86). -/
def State.prepare (s : State) : State := s.advance.clearStepFlags.countTimers

/-- Phase 4 for an unrecognised word (R87): `DIAG.valid <- 1; DIAG.opcode <- op` and nothing else. -/
def State.reportUnrecognised (s : State) (op : Word) : State :=
  { s with diagValid := true, diagOpcode := op }

/-- Phase 5 (R88): clear the key flags, unless phase 4 raised a fault (R178). -/
def State.finish (s : State) : State :=
  if s.fault = .none then s.clearKeys else s

/-- Lay the bytes of a word where the next fetch reads them (R45, R82). -/
def State.placeWord (s : State) (op : Word) : State :=
  (s.memWrite s.pc (op.extractLsb' 8 8)).memWrite (s.pc + 1#16) (op.extractLsb' 0 8)

end Sys2Proof.Machine
end

