-- ==== Sys2Proof/Machine/Flags.lean ====
section
/-! DEFINITION. What VF receives from the instructions that write it as a flag (rule R11). -/

namespace Sys2Proof.Machine

/-- A condition as a flag value, 1 or 0. -/
def flagOf (cond : Bool) : Byte := if cond then 1#8 else 0#8

/-- 8XY4 (R126): 1 if the exact sum exceeds 255, else 0. -/
def carryFlag (sum : Nat) : Byte := flagOf (decide (sum > 255))

/-- 8XY5 and 8XY7 (R127, R129): 1 if the first operand is strictly greater, else 0. -/
def greaterFlag (a b : Byte) : Byte := flagOf (decide (a.toNat > b.toNat))

/-- 8XY6 (R128): `V[Y] & 1`. -/
def lowBitFlag (b : Byte) : Byte := b &&& 1#8

/-- 8XYE (R130): `(V[Y] >> 7) & 1`. -/
def highBitFlag (b : Byte) : Byte := (b >>> 7) &&& 1#8

/-- DXYN (R151, R154): the collision flag. -/
def collisionFlag (coll : Bool) : Byte := flagOf coll

end Sys2Proof.Machine
end

