-- ==== Sys2Proof/Machine/Operands.lean ====
section
/-! DEFINITION. Operand forms: what a field of an instruction denotes (rules R63, R146). -/

namespace Sys2Proof.Machine

/-- `NNN` as a 16-bit value: a jump target or a value for I (R63), zero-extended. -/
def addrOperand (nnn : Addr) : Word := nnn.setWidth 16

/-- A register's content where it meets a wider value: zero-extended (R63). -/
def wideOperand (b : Byte) : Word := b.setWidth 16

/-- The register named by the number `k` (FX55, FX65: X "is additionally used as a number", R63). -/
def regNumber (k : Nat) : Nibble := BitVec.ofNat 4 k

/-- The one addressing mode for data: `EA = (I + k) mod 4096` (R146); the reduction is the access's (R42). -/
def State.dataAddr (s : State) (k : Nat) : Word := s.i + BitVec.ofNat 16 k

/-- FX29 (R142): the address of the glyph of a register's content, `5 * VX`. -/
def glyphAddr (b : Byte) : Word := 5#16 * wideOperand b

/-- FX33 (R143): hundreds digit, `v div 100`. -/
def hundreds (b : Byte) : Byte := BitVec.ofNat 8 (b.toNat / 100)

/-- FX33 (R143): tens digit, `(v div 10) mod 10`. -/
def tens (b : Byte) : Byte := BitVec.ofNat 8 (b.toNat / 10 % 10)

/-- FX33 (R143): units digit, `v mod 10`. -/
def units (b : Byte) : Byte := BitVec.ofNat 8 (b.toNat % 10)

/-- FX55 (R144): `MemWrite(I + k, 1, V[k])` for the first `n` values of `k`, ascending. -/
def State.storeRegs (s : State) : Nat → State
  | 0 => s
  | k + 1 => (s.storeRegs k).memWrite (s.dataAddr k) (s.getV (regNumber k))

/-- FX65 (R145): `V[k] <- MemRead(I + k, 1)` for the first `n` values of `k`, ascending. -/
def State.loadRegs (s : State) : Nat → State
  | 0 => s
  | k + 1 => (s.loadRegs k).setV (regNumber k) (s.memRead (s.dataAddr k))

end Sys2Proof.Machine
end

