-- ==== Sys2Proof/Machine/Alu.lean ====
section
/-! DEFINITION. Register load, arithmetic, logic, shift and random instructions (`42_alu.md`). Effects are applied in
the order written, "each reads the state left by the ones before it" (R133; D13; log 11). -/

namespace Sys2Proof.Machine

/-- 6XNN (R120). -/
def execLdVxNn (x : Nibble) (nn : Byte) (s : State) : Result :=
  .next (s.setV x nn)

/-- 7XNN (R121): VF is not written. -/
def execAddVxNn (x : Nibble) (nn : Byte) (s : State) : Result :=
  .next (s.setV x (BitVec.ofNat 8 ((s.getV x).toNat + nn.toNat)))

/-- 8XY0 (R122). -/
def execLdVxVy (x y : Nibble) (s : State) : Result :=
  .next (s.setV x (s.getV y))

/-- 8XY1 (R123). -/
def execOrVxVy (x y : Nibble) (s : State) : Result :=
  .next (s.setV x (s.getV x ||| s.getV y))

/-- 8XY2 (R124). -/
def execAndVxVy (x y : Nibble) (s : State) : Result :=
  .next (s.setV x (s.getV x &&& s.getV y))

/-- 8XY3 (R125). -/
def execXorVxVy (x y : Nibble) (s : State) : Result :=
  .next (s.setV x (s.getV x ^^^ s.getV y))

/-- 8XY4 (R126): the exact sum first, then VF, then VX. -/
def execAddVxVy (x y : Nibble) (s : State) : Result :=
  let sum := (s.getV x).toNat + (s.getV y).toNat
  let s₁ := s.setV vF (carryFlag sum)
  .next (s₁.setV x (BitVec.ofNat 8 sum))

/-- 8XY5 (R127): VF first, then the difference of what VX and VY hold after that write. -/
def execSubVxVy (x y : Nibble) (s : State) : Result :=
  let s₁ := s.setV vF (greaterFlag (s.getV x) (s.getV y))
  .next (s₁.setV x (s₁.getV x - s₁.getV y))

/-- 8XY6 (R128): VF, then VY shifted, then VX from the shifted VY. -/
def execShrVxVy (x y : Nibble) (s : State) : Result :=
  let s₁ := s.setV vF (lowBitFlag (s.getV y))
  let s₂ := s₁.setV y (s₁.getV y >>> 1)
  .next (s₂.setV x (s₂.getV y))

/-- 8XY7 (R129): VF first, then the difference of what VY and VX hold after that write. -/
def execSubnVxVy (x y : Nibble) (s : State) : Result :=
  let s₁ := s.setV vF (greaterFlag (s.getV y) (s.getV x))
  .next (s₁.setV x (s₁.getV y - s₁.getV x))

/-- 8XYE (R130): VF, then VY shifted, then VX from the shifted VY. -/
def execShlVxVy (x y : Nibble) (s : State) : Result :=
  let s₁ := s.setV vF (highBitFlag (s.getV y))
  let s₂ := s₁.setV y (s₁.getV y <<< 1)
  .next (s₂.setV x (s₂.getV y))

/-- CXNN (R131): `r & NN` for the draw `r` (a free value, log 3). -/
def execRndVxNn (x : Nibble) (nn : Byte) (s : State) : Result :=
  let (r, s₁) := s.rnd
  .next (s₁.setV x (r &&& nn))

end Sys2Proof.Machine
end

