-- ==== Sys2Proof/Machine/Control.lean ====
section
/-! DEFINITION. Control transfer instructions (`41_control_flow.md`). They run in phase 4, with PC already the address
of the next sequential instruction (R83). -/

namespace Sys2Proof.Machine

/-- 00EE (R100): pop into PC; on an empty stack take StackUnderflow. -/
def execRet (s : State) : Result :=
  match s.pop with
  | .ok (t, s₁) => .next (s₁.setPc t)
  | .error f => .next (s.raise f)

/-- 1NNN (R101). -/
def execJpNnn (nnn : Addr) (s : State) : Result :=
  .next (s.setPc (addrOperand nnn))

/-- 2NNN (R102): push PC, then jump; on a full stack take StackOverflow. -/
def execCallNnn (nnn : Addr) (s : State) : Result :=
  match s.push s.pc with
  | .ok s₁ => .next (s₁.setPc (addrOperand nnn))
  | .error f => .next (s.raise f)

/-- 3XNN (R103). -/
def execSeVxNn (x : Nibble) (nn : Byte) (s : State) : Result :=
  .next (s.skipIf (s.getV x == nn))

/-- 4XNN (R104). -/
def execSneVxNn (x : Nibble) (nn : Byte) (s : State) : Result :=
  .next (s.skipIf (s.getV x != nn))

/-- 5XY0 (R105). -/
def execSeVxVy (x y : Nibble) (s : State) : Result :=
  .next (s.skipIf (s.getV x == s.getV y))

/-- 9XY0 (R106). -/
def execSneVxVy (x y : Nibble) (s : State) : Result :=
  .next (s.skipIf (s.getV x != s.getV y))

/-- BNNN (R107): `(NNN + V0) & 0x0FFF`; the register is always V0. -/
def execJpV0Nnn (nnn : Addr) (s : State) : Result :=
  .next (s.setPc (addrOperand nnn + wideOperand (s.getV 0#4)))

end Sys2Proof.Machine
end

