-- ==== Sys2Proof/Machine/Display.lean ====
section
/-! DEFINITION. Display instructions (`44_display.md`). -/

namespace Sys2Proof.Machine

/-- 00E0 (R150): all cells 0, DU 1. -/
def execCls (s : State) : Result :=
  .next (s.setDisplay 0#2048)

/-- DXYN (R151): coordinates latched first, the sprite XORed in, then VF, then DU (D12; log 11). -/
def execDrwVxVyN (x y n : Nibble) (s : State) : Result :=
  let blit := Blit.rows (fun row => s.memRead (s.dataAddr row)) (s.getV x).toNat (s.getV y).toNat n.toNat
    { fb := s.fb, coll := false }
  .next ((s.setV vF (collisionFlag blit.coll)).setDisplay blit.fb)

end Sys2Proof.Machine
end

