-- ==== Sys2Proof/Machine/Index.lean ====
section
/-! DEFINITION. Address-register, load and store instructions (`43_index_memory.md`). -/

namespace Sys2Proof.Machine

/-- ANNN (R140). -/
def execLdINnn (nnn : Addr) (s : State) : Result :=
  .next (s.setI (addrOperand nnn))

/-- FX1E (R141): `(I + VX) & 0x0FFF`, VF untouched. -/
def execAddIVx (x : Nibble) (s : State) : Result :=
  .next (s.setI (s.i + wideOperand (s.getV x)))

/-- FX29 (R142): `5 * VX`, the whole 8-bit content. -/
def execLdFVx (x : Nibble) (s : State) : Result :=
  .next (s.setI (glyphAddr (s.getV x)))

/-- FX33 (R143): the three decimal digits of VX at I, I+1, I+2; I stays. -/
def execLdBVx (x : Nibble) (s : State) : Result :=
  let b := s.getV x
  let s₁ := s.memWrite (s.dataAddr 0) (hundreds b)
  let s₂ := s₁.memWrite (s.dataAddr 1) (tens b)
  .next (s₂.memWrite (s.dataAddr 2) (units b))

/-- FX55 (R144): store V0..VX, then `I <- (I + X + 1) & 0x0FFF`. -/
def execLdMemVx (x : Nibble) (s : State) : Result :=
  .next ((s.storeRegs (x.toNat + 1)).setI (s.dataAddr (x.toNat + 1)))

/-- FX65 (R145): load V0..VX, then `I <- (I + X + 1) & 0x0FFF`. -/
def execLdVxMem (x : Nibble) (s : State) : Result :=
  .next ((s.loadRegs (x.toNat + 1)).setI (s.dataAddr (x.toNat + 1)))

end Sys2Proof.Machine
end

