-- ==== Sys2Proof/Machine/Keys.lean ====
section
/-! DEFINITION. Key and timer instructions (`45_keys_timers.md`). The timers have counted down for this Step before any
of them runs (R85). -/

namespace Sys2Proof.Machine

/-- EX9E (R160): the key number is the content of VX. -/
def execSkpVx (x : Nibble) (s : State) : Result :=
  let (pressed, s₁) := s.isKeyPressed (s.getV x)
  .next (s₁.skipIf pressed)

/-- EXA1 (R161): the inverse condition; the query still consumes. -/
def execSknpVx (x : Nibble) (s : State) : Result :=
  let (pressed, s₁) := s.isKeyPressed (s.getV x)
  .next (s₁.skipIf (!pressed))

/-- FX07 (R163). -/
def execLdVxDt (x : Nibble) (s : State) : Result :=
  .next (s.setV x s.dt)

/-- FX0A (R162): with no key, rewind PC by 2 so that the next Step retries; else VX receives the key number. -/
def execLdVxK (x : Nibble) (s : State) : Result :=
  match s.firstPressedKey with
  | none => .next (s.setPc (s.pc - 2#16))
  | some (k, s₁) => .next (s₁.setV x (k.setWidth 8))

/-- FX15 (R164). -/
def execLdDtVx (x : Nibble) (s : State) : Result :=
  .next (s.setDt (s.getV x))

/-- FX18 (R165). -/
def execLdStVx (x : Nibble) (s : State) : Result :=
  .next (s.setSt (s.getV x))

end Sys2Proof.Machine
end

