-- ==== Sys2Proof/Machine/Phases.lean ====
section
/-! DEFINITION. The five phases of a Step put together (rules R81, R91). -/

namespace Sys2Proof.Machine

/-- Phases 4 and 5 on the state after phases 1 to 3 (R86 to R88, R178). -/
def State.complete (s : State) (d : Decoded) : Result :=
  match d with
  | .unrecognised op => .next (s.reportUnrecognised op).finish
  | .instr i =>
    match exec i s with
    | .next t => .next t.finish
    | .fault r => .fault r
    | .refused r => .refused r

/-- The whole Step (R91). While `FAULT != 0` it does nothing (R89). -/
def State.runStep (s : State) : Result :=
  if s.fault = .none then s.prepare.complete (decode s.fetch) else .next s

end Sys2Proof.Machine
end

