-- ==== Sys2Proof/Machine/Step.lean ====
section
/-! DEFINITION. The fixed names of the step and of the host's way to place an instruction for it. -/

namespace Sys2Proof.Machine

/-- `Step()` (R80, R91). -/
def step (s : State) : Host.Outcome State Fault Refusal := s.runStep

/-- The state with a word of `nbits` bits stored where the next Step fetches: its two bytes at PC and PC + 1, high byte
first (R45, R82), the bits above `nbits` 0. Stands for the Load by which a program comes into memory (log 17). -/
def State.withFetchWord (s : State) (nbits w : Nat) : State :=
  s.placeWord (BitVec.ofNat 16 (w % 2 ^ nbits))

end Sys2Proof.Machine
end

