-- ==== Sys2Proof/Machine/Transactions.lean ====
section
/-! DEFINITION. The host's transactions other than Step, and its observers (rules R9, R25, R187, R188, R200 to R204).
Each acts wholly between two Steps (R8; log 17). -/

namespace Sys2Proof.Machine

/-! ### Reset (R200) -/

/-- `Reset()`: every piece of state to the reset table R26; the configured FONT and stack depth stay (R23; log 24),
and the count of random draws stays so that no draw is used again (log 3, log 18). -/
def State.hostReset (s : State) : State := State.resetWith s.font s.stackDepth s.draws

/-! ### Load (R202, R203) -/

/-- What Load returns (R202, R203): a status, never FAULT (R173). -/
inductive LoadStatus where
  | ok
  | outOfSpace
  deriving DecidableEq, Repr

/-- The code of a failing status (R170: 3 `OutOfSpace`); `Ok` is no fault condition and has none. -/
def LoadStatus.code : LoadStatus → Option Nat
  | .ok => none
  | .outOfSpace => some 3

/-- `MEM[base + k] <- bytes[k]`, ascending (R202). -/
def State.storeBytes (s : State) (base : Word) : List Byte → State
  | [] => s
  | b :: bs => (s.memWrite base b).storeBytes (base + 1#16) bs

/-- `Load(bytes)`: the image at 512 and nothing else (R202); an image over 3584 bytes writes nothing (R203; D23;
log 18). -/
def State.hostLoad (s : State) (bytes : List Byte) : LoadStatus × State :=
  if bytes.length ≤ Config.progMax then (.ok, s.storeBytes 512#16 bytes) else (.outOfSpace, s)

/-! ### KeyEvent (R187, R188) -/

/-- What a key byte leads to outside the CORE: nothing, or the exit event, which carries no data (R188). -/
inductive KeyOutput where
  | silent
  | exitEvent
  deriving DecidableEq, Repr

/-- `KeyEvent(b)` (R187): 0..15 set a flag, 255 emits the exit event, every other byte is ignored. -/
def State.hostKeyEvent (s : State) (b : Byte) : KeyOutput × State :=
  if b.toNat ≤ 15 then (.silent, s.setKey (b.setWidth 4) true)
  else if b = 0xFF#8 then (.exitEvent, s)
  else (.silent, s)

/-! ### Observers (R25): reads without side effect. SP, the stack, KEY and MEM are read by `State.sp`,
`State.stackEntry`, `State.keyAt` and `State.memRead`. -/

/-- The framebuffer snapshot, "a fixed 2048-cell grid of 0/1 values, row-major" (R25). -/
def State.snapshot (s : State) : List Bool := (List.range Config.fbCells).map s.fbAt

/-- Pixel `(x, y)` is cell `x + 64*y` (R17, R25). -/
def State.pixel (s : State) (x y : Nat) : Bool := s.fbAt (x + Config.fbWidth * y)

end Sys2Proof.Machine
end

