-- ==== Sys2Proof/Machine/System.lean ====
section
/-! DEFINITION. The CORE and the HOST together: any sequence of host transactions and Steps (rules R8, R9, R176). -/

namespace Sys2Proof.Machine

/-- The complete list of transactions (R9). -/
inductive Transaction where
  | reset
  | load (bytes : List Byte)
  | keyEvent (b : Byte)
  | step
  deriving DecidableEq, Repr

/-- What one transaction does to the state. A Step always answers a next state (R91); an answer without one would leave
the state alone. -/
def Transaction.apply (t : Transaction) (s : State) : State :=
  match t with
  | .reset => s.hostReset
  | .load bytes => (s.hostLoad bytes).2
  | .keyEvent b => (s.hostKeyEvent b).2
  | .step =>
    match Sys2Proof.Machine.step s with
    | .next s' => s'
    | .fault _ => s
    | .refused _ => s

/-- A sequence of transactions, first to last. -/
def runTransactions (ts : List Transaction) (s : State) : State :=
  ts.foldl (fun u t => t.apply u) s

end Sys2Proof.Machine
end

