-- ==== Sys2Proof/Safety.lean ====
section
/-! DEFINITION. The terms in which claims are made: the invariant of the state (rule R24), what an instruction may change,
and runs during which nothing halts the core. -/

namespace Sys2Proof.Machine

/-! ### The invariant -/

/-- The width invariant (R24) for what the types do not already say: I, PC and every call-stack entry have bits 15..12
zero (R12, R13, R14), and memory has its canonical form (log 20), every listed address below 4096. -/
structure State.Inv (s : State) : Prop where
  index : s.i.toNat < 4096
  counter : s.pc.toNat < 4096
  valid : ∀ e ∈ s.stack, e.toNat < 4096
  free : ∀ e ∈ s.stackFree, e.toNat < 4096
  memory : Memory.wf s.font s.mem = true

/-! ### What may change -/

/-- The parts of the state other than the V registers. -/
inductive Part where
  | i | pc | mem | stack | dt | st | fb | du | keys | fault | diag | draws
  deriving DecidableEq, Repr

/-- Everything but the V registers listed in `dest` and the parts listed in `touched` is unchanged. Memory is compared
through the read of one byte, at every address. FONT is configuration and never changes (R23). -/
structure Frame (dest : List Nibble) (touched : List Part) (s t : State) : Prop where
  regs : ∀ r, r ∉ dest → t.getV r = s.getV r
  i : .i ∉ touched → t.i = s.i
  pc : .pc ∉ touched → t.pc = s.pc
  mem : .mem ∉ touched → ∀ a, t.memRead a = s.memRead a
  stack : .stack ∉ touched → t.stack = s.stack ∧ t.stackFree = s.stackFree
  dt : .dt ∉ touched → t.dt = s.dt
  st : .st ∉ touched → t.st = s.st
  fb : .fb ∉ touched → t.fb = s.fb
  du : .du ∉ touched → t.du = s.du
  keys : .keys ∉ touched → ∀ k, t.keyAt k = s.keyAt k
  fault : .fault ∉ touched → t.fault = s.fault
  diag : .diag ∉ touched → t.diagValid = s.diagValid ∧ t.diagOpcode = s.diagOpcode
  draws : .draws ∉ touched → t.draws = s.draws
  font : t.font = s.font

/-- Every byte of memory is unchanged but the `n` bytes at `addr 0 .. addr (n-1)`. -/
def SameMemoryOutside (n : Nat) (addr : Nat → Word) (s t : State) : Prop :=
  ∀ a, (∀ k < n, mask12 (addr k) ≠ mask12 a) → t.memRead a = s.memRead a

/-- The V registers an instruction may write: its destinations, VY of the shifts (R128, R130), and VF of the six
instructions that write it "as a side effect" (R11). -/
def destinations : Instr → List Nibble
  | .cls | .ret | .jpNnn _ | .callNnn _ | .seVxNn _ _ | .sneVxNn _ _ | .seVxVy _ _ | .sneVxVy _ _ => []
  | .ldINnn _ | .jpV0Nnn _ | .skpVx _ | .sknpVx _ | .ldDtVx _ | .ldStVx _ => []
  | .addIVx _ | .ldFVx _ | .ldBVx _ | .ldMemVx _ => []
  | .ldVxNn x _ | .addVxNn x _ | .rndVxNn x _ => [x]
  | .ldVxVy x _ | .orVxVy x _ | .andVxVy x _ | .xorVxVy x _ => [x]
  | .addVxVy x _ | .subVxVy x _ | .subnVxVy x _ => [x, vF]
  | .shrVxVy x y | .shlVxVy x y => [x, y, vF]
  | .drwVxVyN _ _ _ => [vF]
  | .ldVxDt x | .ldVxK x => [x]
  | .ldVxMem x => (List.range (x.toNat + 1)).map (BitVec.ofNat 4)

/-- The parts of the state an instruction may change in phase 4 (R13 for PC, R14 and R41 for the stack, R147 for I, R44
for MEM, R167 for keys, timers, the random source, FB and DU, R170 for FAULT). -/
def touchedParts : Instr → List Part
  | .cls | .drwVxVyN _ _ _ => [.fb, .du]
  | .ret | .callNnn _ => [.pc, .stack, .fault]
  | .jpNnn _ | .jpV0Nnn _ | .seVxNn _ _ | .sneVxNn _ _ | .seVxVy _ _ | .sneVxVy _ _ => [.pc]
  | .skpVx _ | .sknpVx _ | .ldVxK _ => [.pc, .keys]
  | .ldVxNn _ _ | .addVxNn _ _ | .ldVxVy _ _ | .orVxVy _ _ | .andVxVy _ _ | .xorVxVy _ _ => []
  | .addVxVy _ _ | .subVxVy _ _ | .shrVxVy _ _ | .subnVxVy _ _ | .shlVxVy _ _ | .ldVxDt _ => []
  | .rndVxNn _ _ => [.draws]
  | .ldINnn _ | .addIVx _ | .ldFVx _ | .ldVxMem _ => [.i]
  | .ldBVx _ => [.mem]
  | .ldMemVx _ => [.mem, .i]
  | .ldDtVx _ => [.dt]
  | .ldStVx _ => [.st]

/-! ### Reset -/

/-- The reset table (R26) for the parameters FONT and STACK_DEPTH, piece by piece. -/
structure IsReset (font : Font) (depth : Nat) (s : State) : Prop where
  v : ∀ r, s.getV r = 0#8
  i : s.i = 0#16
  pc : s.pc.toNat = 512
  sp : s.sp = 0
  stackDepth : s.stackDepth = depth
  entries : ∀ k, k < depth → s.stackEntry k = some 0#16
  dt : s.dt = 0#8
  st : s.st = 0#8
  fontBytes : ∀ a : Word, (h : a.toNat < 80) → s.memRead a = font[a.toNat]
  zeroBytes : ∀ a : Word, 80 ≤ a.toNat → a.toNat < 4096 → s.memRead a = 0#8
  fb : ∀ k, s.fbAt k = false
  du : s.du = false
  keys : ∀ k, s.keyAt k = false
  fault : s.fault = .none ∧ s.fault.code = 0
  diag : s.diagValid = false ∧ s.diagOpcode = 0#16
  font : s.font = font

/-! ### Runs -/

/-- For the next `n` Steps no fault is raised and no FX15 is executed (R207: the delay timer is left to run down). -/
def LeavesDelayTimer : Nat → State → Prop
  | 0, s => s.fault = .none
  | n + 1, s => s.fault = .none ∧ (∀ x, decode s.fetch ≠ .instr (.ldDtVx x)) ∧
      ∀ t, step s = .next t → LeavesDelayTimer n t

end Sys2Proof.Machine
end

