-- ==== Sys2Proof/Certificates/Slice0/Obligations.lean ====
section
/-! DEFINITION. The statements for the provers. Each docstring names the rule it formalises; where a clause rests on a
decision the spec marks as its own (`92_eei_decisions.md`), the docstring names the decision and the log entry. -/

open Sys2Proof Sys2Proof.Machine

/-! ### Encoding and decoding -/

/-- R61, R62, R70, R74: no bit of an encoding is dropped. Decoding the word, or the bytes, of any instruction gives the
instruction back, with every operand at every value. The strictness of the decoder is the spec's D22 (log 16). -/
def Obligations.DecodeInvertsEncode : Prop :=
  ∀ (i : Instr) (rest : List Byte),
    decode (encode i) = .instr i ∧ decodeBytes (encodeBytes i ++ rest) = .ok (i, rest)

/-- R70, R74: an instruction has one word. Whatever word decodes to an instruction is that instruction's encoding. -/
def Obligations.EncodeInvertsDecode : Prop :=
  ∀ (op : Word) (i : Instr), decode op = .instr i → encode i = op

/-- R70: "a word `op` is the instruction of a row exactly when `op & mask == match`. No two rows overlap"; R71: a word that
matches no row is unrecognised. D22 (log 16) makes every literal digit count. -/
def Obligations.DecoderFollowsOpcodeMap : Prop :=
  ∀ op : Word,
    (∀ i, decode op = .instr i → i.row.matches op = true ∧ ∀ r ∈ opcodeRows, r.matches op = true → r = i.row) ∧
    (∀ w, decode op = .unrecognised w → w = op ∧ ∀ r ∈ opcodeRows, r.matches op = false)

/-- R71: the six groups of unrecognised words, and no others. The groups of families 0, 5 and 9 rest on D22 (log 16). -/
def Obligations.UnrecognisedWordsAreTheSixGroups : Prop :=
  ∀ op : Word, decode op = .unrecognised op ↔
    (fieldT op = 0#4 ∧ op ≠ 0x00E0#16 ∧ op ≠ 0x00EE#16) ∨
    (fieldT op = 5#4 ∧ fieldN op ≠ 0#4) ∨
    (fieldT op = 8#4 ∧ fieldN op ∈ [0x8#4, 0x9#4, 0xA#4, 0xB#4, 0xC#4, 0xD#4, 0xF#4]) ∨
    (fieldT op = 9#4 ∧ fieldN op ≠ 0#4) ∨
    (fieldT op = 0xE#4 ∧ fieldNN op ∉ [0x9E#8, 0xA1#8]) ∨
    (fieldT op = 0xF#4 ∧
      fieldNN op ∉ [0x07#8, 0x0A#8, 0x15#8, 0x18#8, 0x1E#8, 0x29#8, 0x33#8, 0x55#8, 0x65#8])

/-- Words written out from the patterns of R70 (the spot checks of `95_test_vectors.md` 2.1 among them). -/
def Obligations.SampleWordsDecode : Prop :=
  decode 0x00E0#16 = .instr .cls ∧ decode 0x00EE#16 = .instr .ret ∧
  decode 0x1000#16 = .instr (.jpNnn 0x000#12) ∧ decode 0xBABC#16 = .instr (.jpV0Nnn 0xABC#12) ∧
  decode 0x8AB6#16 = .instr (.shrVxVy 0xA#4 0xB#4) ∧ decode 0xDEF5#16 = .instr (.drwVxVyN 0xE#4 0xF#4 5#4) ∧
  decode 0xEF9E#16 = .instr (.skpVx 0xF#4) ∧ decode 0xF965#16 = .instr (.ldVxMem 9#4) ∧
  decode 0xF11F#16 = .unrecognised 0xF11F#16 ∧ decode 0x8AB8#16 = .unrecognised 0x8AB8#16

/-! ### Register load, arithmetic, logic, shift, random -/

/-- R120 (6XNN) and R122 (8XY0): encoding, the new value of VX, and everything else unchanged, for every X, VF included. -/
def Obligations.LoadImmediateAndMove : Prop :=
  (∀ op, fieldT op = 6#4 → decode op = .instr (.ldVxNn (fieldX op) (fieldNN op))) ∧
  (∀ op, fieldT op = 8#4 → fieldN op = 0#4 → decode op = .instr (.ldVxVy (fieldX op) (fieldY op))) ∧
  (∀ x nn s, ∃ t, exec (.ldVxNn x nn) s = .next t ∧ t.getV x = nn ∧ Frame [x] [] s t) ∧
  (∀ x y s, ∃ t, exec (.ldVxVy x y) s = .next t ∧ t.getV x = s.getV y ∧ Frame [x] [] s t)

/-- R121 (7XNN): the sum modulo 256, and no flag: VF is unchanged unless it is VX itself. -/
def Obligations.AddImmediateWrapsWithoutFlag : Prop :=
  (∀ op, fieldT op = 7#4 → decode op = .instr (.addVxNn (fieldX op) (fieldNN op))) ∧
  (∀ x nn s, ∃ t, exec (.addVxNn x nn) s = .next t ∧
    (t.getV x).toNat = ((s.getV x).toNat + nn.toNat) % 256 ∧ Frame [x] [] s t)

/-- R123, R124, R125 (8XY1, 8XY2, 8XY3): bit by bit, and VF neither written nor reset. -/
def Obligations.LogicIsBitwiseWithoutFlag : Prop :=
  (∀ op, fieldT op = 8#4 → fieldN op = 1#4 → decode op = .instr (.orVxVy (fieldX op) (fieldY op))) ∧
  (∀ op, fieldT op = 8#4 → fieldN op = 2#4 → decode op = .instr (.andVxVy (fieldX op) (fieldY op))) ∧
  (∀ op, fieldT op = 8#4 → fieldN op = 3#4 → decode op = .instr (.xorVxVy (fieldX op) (fieldY op))) ∧
  (∀ x y s, ∃ t, exec (.orVxVy x y) s = .next t ∧ Frame [x] [] s t ∧
    ∀ k, (t.getV x).getLsbD k = ((s.getV x).getLsbD k || (s.getV y).getLsbD k)) ∧
  (∀ x y s, ∃ t, exec (.andVxVy x y) s = .next t ∧ Frame [x] [] s t ∧
    ∀ k, (t.getV x).getLsbD k = ((s.getV x).getLsbD k && (s.getV y).getLsbD k)) ∧
  (∀ x y s, ∃ t, exec (.xorVxVy x y) s = .next t ∧ Frame [x] [] s t ∧
    ∀ k, (t.getV x).getLsbD k = ((s.getV x).getLsbD k ^^ (s.getV y).getLsbD k))

/-- R126 (8XY4): the sum of the old values modulo 256 in VX; VF is 1 exactly when the sum exceeds 255, unless X is F, when
the sum overwrites it (that clause is the sequential reading of R133, the spec's D13, log 11). -/
def Obligations.AddSetsCarryFlag : Prop :=
  ∀ x y s, ∃ t, exec (.addVxVy x y) s = .next t ∧
    (t.getV x).toNat = ((s.getV x).toNat + (s.getV y).toNat) % 256 ∧
    (x ≠ vF → t.getV vF = if (s.getV x).toNat + (s.getV y).toNat > 255 then 1#8 else 0#8) ∧
    Frame [x, vF] [] s t

/-- R127 (8XY5): VF is 1 exactly when VX > VY, then VX receives the wrapped difference. With VF as X or Y the new flag is
what the subtraction reads (R133, the spec's D13, log 11). -/
def Obligations.SubtractSetsGreaterFlag : Prop :=
  ∀ x y s, ∃ t, exec (.subVxVy x y) s = .next t ∧ Frame [x, vF] [] s t ∧
    (x ≠ vF → t.getV vF = if (s.getV x).toNat > (s.getV y).toNat then 1#8 else 0#8) ∧
    (x ≠ vF → y ≠ vF → ((t.getV x).toNat : Int) = ((s.getV x).toNat - (s.getV y).toNat : Int) % 256) ∧
    (x ≠ vF → y = vF →
      ((t.getV x).toNat : Int) =
        ((s.getV x).toNat - (if (s.getV x).toNat > (s.getV vF).toNat then 1 else 0) : Int) % 256) ∧
    (x = vF → y ≠ vF →
      ((t.getV vF).toNat : Int) =
        ((if (s.getV vF).toNat > (s.getV y).toNat then 1 else 0) - (s.getV y).toNat : Int) % 256) ∧
    (x = vF → y = vF → t.getV vF = 0#8)

/-- R129 (8XY7): VF is 1 exactly when VY > VX, then VX receives VY - VX wrapped; VF as X or Y as in R133 (D13, log 11). -/
def Obligations.ReverseSubtractSetsGreaterFlag : Prop :=
  ∀ x y s, ∃ t, exec (.subnVxVy x y) s = .next t ∧ Frame [x, vF] [] s t ∧
    (x ≠ vF → t.getV vF = if (s.getV y).toNat > (s.getV x).toNat then 1#8 else 0#8) ∧
    (x ≠ vF → y ≠ vF → ((t.getV x).toNat : Int) = ((s.getV y).toNat - (s.getV x).toNat : Int) % 256) ∧
    (x ≠ vF → y = vF →
      ((t.getV x).toNat : Int) =
        ((if (s.getV vF).toNat > (s.getV x).toNat then 1 else 0) - (s.getV x).toNat : Int) % 256) ∧
    (x = vF → y ≠ vF →
      ((t.getV vF).toNat : Int) =
        ((s.getV y).toNat - (if (s.getV y).toNat > (s.getV vF).toNat then 1 else 0) : Int) % 256) ∧
    (x = vF → y = vF → t.getV vF = 0#8)

/-- R128 (8XY6): VF receives bit 0 of VY, and both VY and VX end as old VY halved. With VF as X or Y the later write wins
(R133, the spec's D13, log 11). -/
def Obligations.ShiftRightMutatesSource : Prop :=
  ∀ x y s, ∃ t, exec (.shrVxVy x y) s = .next t ∧ Frame [x, y, vF] [] s t ∧
    t.getV x = t.getV y ∧
    (y ≠ vF → (t.getV y).toNat = (s.getV y).toNat / 2) ∧
    (x ≠ vF → y ≠ vF → (t.getV vF).toNat = (s.getV y).toNat % 2) ∧
    (y = vF → t.getV vF = 0#8)

/-- R130 (8XYE): VF receives bit 7 of VY, and both VY and VX end as old VY doubled modulo 256. With Y = F both end as twice
the bit shifted out (R133, the spec's D13, log 11). -/
def Obligations.ShiftLeftMutatesSource : Prop :=
  ∀ x y s, ∃ t, exec (.shlVxVy x y) s = .next t ∧ Frame [x, y, vF] [] s t ∧
    t.getV x = t.getV y ∧
    (y ≠ vF → (t.getV y).toNat = (s.getV y).toNat * 2 % 256) ∧
    (x ≠ vF → y ≠ vF → (t.getV vF).toNat = (s.getV y).toNat / 128) ∧
    (y = vF → (t.getV vF).toNat = 2 * ((s.getV vF).toNat / 128))

/-- R131 (CXNN): VX is the draw AND NN; the draw is the next one, never used again. The draw is a FREE VALUE (the spec's D20,
log 3): the statement holds whatever `Config.rnd` is, and uses no value of it. -/
def Obligations.RandomByteIsMaskedDraw : Prop :=
  ∀ x nn s, ∃ t, exec (.rndVxNn x nn) s = .next t ∧
    t.getV x = Config.rnd s.draws &&& nn ∧ t.draws = s.draws + 1 ∧
    (∀ k, nn.getLsbD k = false → (t.getV x).getLsbD k = false) ∧ Frame [x] [.draws] s t

/-! ### Control transfer -/

/-- R103 to R106 (3XNN, 4XNN, 5XY0, 9XY0): a further 2 on PC exactly when the condition holds. `PC` is the address of the next
sequential instruction (R83), and a skip wraps modulo 4096 (R90; the wrap is the spec's D3, log 5; that 5XY0 and 9XY0 need the 0 is its
D22, log 16). -/
def Obligations.ConditionalSkips : Prop :=
  (∀ op, fieldT op = 3#4 → decode op = .instr (.seVxNn (fieldX op) (fieldNN op))) ∧
  (∀ op, fieldT op = 4#4 → decode op = .instr (.sneVxNn (fieldX op) (fieldNN op))) ∧
  (∀ op, fieldT op = 5#4 → fieldN op = 0#4 → decode op = .instr (.seVxVy (fieldX op) (fieldY op))) ∧
  (∀ op, fieldT op = 9#4 → fieldN op = 0#4 → decode op = .instr (.sneVxVy (fieldX op) (fieldY op))) ∧
  (∀ x nn s, ∃ t, exec (.seVxNn x nn) s = .next t ∧ Frame [] [.pc] s t ∧
    (s.getV x = nn → t.pc.toNat = (s.pc.toNat + 2) % 4096) ∧ (s.getV x ≠ nn → t.pc = s.pc)) ∧
  (∀ x nn s, ∃ t, exec (.sneVxNn x nn) s = .next t ∧ Frame [] [.pc] s t ∧
    (s.getV x ≠ nn → t.pc.toNat = (s.pc.toNat + 2) % 4096) ∧ (s.getV x = nn → t.pc = s.pc)) ∧
  (∀ x y s, ∃ t, exec (.seVxVy x y) s = .next t ∧ Frame [] [.pc] s t ∧
    (s.getV x = s.getV y → t.pc.toNat = (s.pc.toNat + 2) % 4096) ∧ (s.getV x ≠ s.getV y → t.pc = s.pc)) ∧
  (∀ x y s, ∃ t, exec (.sneVxVy x y) s = .next t ∧ Frame [] [.pc] s t ∧
    (s.getV x ≠ s.getV y → t.pc.toNat = (s.pc.toNat + 2) % 4096) ∧ (s.getV x = s.getV y → t.pc = s.pc))

/-- R107 (BNNN), and the jump of R101 (1NNN): the target is NNN, or NNN plus V0 (never another register) modulo 4096. -/
def Obligations.JumpTargets : Prop :=
  (∀ op, fieldT op = 1#4 → decode op = .instr (.jpNnn (fieldNNN op))) ∧
  (∀ op, fieldT op = 0xB#4 → decode op = .instr (.jpV0Nnn (fieldNNN op))) ∧
  (∀ nnn s, ∃ t, exec (.jpNnn nnn) s = .next t ∧ t.pc.toNat = nnn.toNat ∧ Frame [] [.pc] s t) ∧
  (∀ nnn s, ∃ t, exec (.jpV0Nnn nnn) s = .next t ∧
    t.pc.toNat = (nnn.toNat + (s.getV 0#4).toNat) % 4096 ∧ Frame [] [.pc] s t)

/-- R102 (2NNN) with room on the stack: PC, the address of the next instruction, is pushed and PC becomes NNN; the older
entries stay. That the stack is finite is the spec's D6 and D7 (log 1, log 8). -/
def Obligations.CallPushesReturnAddress : Prop :=
  ∀ (nnn : Addr) (s : State), s.sp < s.stackDepth →
    ∃ t, exec (.callNnn nnn) s = .next t ∧ t.pc.toNat = nnn.toNat ∧
      t.stack = s.pc :: s.stack ∧ t.sp = s.sp + 1 ∧ t.stackEntry s.sp = some s.pc ∧
      (∀ k, k ≠ s.sp → t.stackEntry k = s.stackEntry k) ∧ Frame [] [.pc, .stack] s t

/-- R100 (00EE) with an entry on the stack: the entry pushed last goes to PC (masked as every write of PC, R13, D3, log 5) and
is no longer valid; its bits stay where they were (R14). -/
def Obligations.ReturnPopsIntoCounter : Prop :=
  ∀ (s : State) (w : Word) (rest : List Word), s.stack = w :: rest →
    ∃ t, exec .ret s = .next t ∧ t.pc.toNat = w.toNat % 4096 ∧ t.stack = rest ∧ t.sp = s.sp - 1 ∧
      (∀ k, t.stackEntry k = s.stackEntry k) ∧ Frame [] [.pc, .stack] s t

/-- R100, R102: "returns pair with calls strictly last-in first-out". A return executed with the stack a call left restores
the caller's stack and goes on after the call. -/
def Obligations.ReturnUndoesCall : Prop :=
  ∀ (nnn : Addr) (s t u : State), s.sp < s.stackDepth → exec (.callNnn nnn) s = .next t → u.stack = t.stack →
    ∃ w, exec .ret u = .next w ∧ w.stack = s.stack ∧ w.pc.toNat = s.pc.toNat % 4096

/-! ### Faults -/

/-- R171, R172, R178: taking a stack fault. A Step whose 00EE finds the stack empty, or whose 2NNN finds it full, sets FAULT and
nothing else in phase 4; phases 1 to 3 are kept and phase 5 is not performed. The mechanism is the spec's D7, D8, D9 (log 8),
the wrap of the advanced PC its D3 (log 5). -/
def Obligations.StackFaultEntry : Prop :=
  (∀ s, s.fault = .none → decode s.fetch = .instr .ret → s.sp = 0 →
    ∃ t, step s = .next t ∧ t.fault = .stackUnderflow ∧ t.fault.code = 1 ∧
      t.pc.toNat = (s.pc.toNat + 2) % 4096 ∧ t.dt.toNat = s.dt.toNat - 1 ∧ t.st.toNat = s.st.toNat - 1 ∧
      t.du = false ∧ t.diagValid = false ∧ t.diagOpcode = s.diagOpcode ∧
      Frame [] [.pc, .dt, .st, .du, .fault, .diag] s t) ∧
  (∀ s nnn, s.fault = .none → decode s.fetch = .instr (.callNnn nnn) → s.sp = s.stackDepth →
    ∃ t, step s = .next t ∧ t.fault = .stackOverflow ∧ t.fault.code = 2 ∧
      t.pc.toNat = (s.pc.toNat + 2) % 4096 ∧ t.dt.toNat = s.dt.toNat - 1 ∧ t.st.toNat = s.st.toNat - 1 ∧
      t.du = false ∧ t.diagValid = false ∧ t.diagOpcode = s.diagOpcode ∧
      Frame [] [.pc, .dt, .st, .du, .fault, .diag] s t)

/-- R170, R177: "No other instruction and no other condition raises anything": a Step ends with FAULT set only by a 00EE on an
empty stack or a 2NNN on a full one, each with its own code (D9, log 8). -/
def Obligations.OnlyStackLimitsFault : Prop :=
  ∀ s t, s.fault = .none → step s = .next t → t.fault ≠ .none →
    (decode s.fetch = .instr .ret ∧ s.sp = 0 ∧ t.fault = .stackUnderflow) ∨
    (∃ nnn, decode s.fetch = .instr (.callNnn nnn) ∧ s.sp = s.stackDepth ∧ t.fault = .stackOverflow)

/-- R89, R179: while FAULT is set every Step is void, for any number of Steps (D9, log 8). -/
def Obligations.HaltedCoreNeverChanges : Prop :=
  ∀ (s : State) (n : Nat), s.fault ≠ .none → core.run n s = .next s

/-! ### Address register, loads and stores -/

/-- R140 (ANNN) and R142 (FX29): I receives NNN, or five times the whole 8-bit content of VX. -/
def Obligations.IndexLoads : Prop :=
  (∀ op, fieldT op = 0xA#4 → decode op = .instr (.ldINnn (fieldNNN op))) ∧
  (∀ op, fieldT op = 0xF#4 → fieldNN op = 0x29#8 → decode op = .instr (.ldFVx (fieldX op))) ∧
  (∀ nnn s, ∃ t, exec (.ldINnn nnn) s = .next t ∧ t.i.toNat = nnn.toNat ∧ Frame [] [.i] s t) ∧
  (∀ x s, ∃ t, exec (.ldFVx x) s = .next t ∧ t.i.toNat = 5 * (s.getV x).toNat ∧ Frame [] [.i] s t)

/-- R141 (FX1E): the sum masked to 12 bits, VF not written. The mask is the spec's D4 (log 6). -/
def Obligations.IndexAddWrapsWithoutFlag : Prop :=
  ∀ x s, ∃ t, exec (.addIVx x) s = .next t ∧ t.i.toNat = (s.i.toNat + (s.getV x).toNat) % 4096 ∧ Frame [] [.i] s t

/-- R143 (FX33): the hundreds, tens and units of VX at I, I+1 and I+2, addresses modulo 4096 (the wrap is the spec's D5,
log 7); every other byte, I and every register unchanged. -/
def Obligations.DecimalDigitsStored : Prop :=
  (∀ op, fieldT op = 0xF#4 → fieldNN op = 0x33#8 → decode op = .instr (.ldBVx (fieldX op))) ∧
  (∀ x s, ∃ t, exec (.ldBVx x) s = .next t ∧
    (t.memRead (s.dataAddr 0)).toNat = (s.getV x).toNat / 100 ∧
    (t.memRead (s.dataAddr 1)).toNat = (s.getV x).toNat / 10 % 10 ∧
    (t.memRead (s.dataAddr 2)).toNat = (s.getV x).toNat % 10 ∧
    (∀ k ≤ 2, (mask12 (s.dataAddr k)).toNat = (s.i.toNat + k) % 4096) ∧
    SameMemoryOutside 3 s.dataAddr s t ∧ Frame [] [.mem] s t)

/-- R144 (FX55): V0..VX at I..I+X, addresses modulo 4096, then I past the block. The mask on I is the spec's D4 (log 6),
the wrap of the addresses its D5 (log 7). -/
def Obligations.BlockStoreWritesRegisters : Prop :=
  ∀ x s, ∃ t, exec (.ldMemVx x) s = .next t ∧
    (∀ k : Nibble, k.toNat ≤ x.toNat → t.memRead (s.dataAddr k.toNat) = s.getV k) ∧
    (∀ k ≤ 15, (mask12 (s.dataAddr k)).toNat = (s.i.toNat + k) % 4096) ∧
    t.i.toNat = (s.i.toNat + x.toNat + 1) % 4096 ∧
    SameMemoryOutside (x.toNat + 1) s.dataAddr s t ∧ Frame [] [.mem, .i] s t

/-- R145 (FX65): V0..VX from I..I+X, addresses modulo 4096; registers above VX and memory unchanged; then I past the block,
masked. The mask on I is the spec's D4 (log 6), the wrap of the addresses its D5 (log 7). -/
def Obligations.BlockLoadReadsRegisters : Prop :=
  (∀ op, fieldT op = 0xF#4 → fieldNN op = 0x65#8 → decode op = .instr (.ldVxMem (fieldX op))) ∧
  (∀ x s, ∃ t, exec (.ldVxMem x) s = .next t ∧
    (∀ k : Nibble, k.toNat ≤ x.toNat → t.getV k = s.memRead (s.dataAddr k.toNat)) ∧
    (∀ k : Nibble, x.toNat < k.toNat → t.getV k = s.getV k) ∧
    (∀ k ≤ 15, (mask12 (s.dataAddr k)).toNat = (s.i.toNat + k) % 4096) ∧
    t.i.toNat = (s.i.toNat + x.toNat + 1) % 4096 ∧ Frame (destinations (.ldVxMem x)) [.i] s t)

/-- `95_test_vectors.md` X5: "`FX55` then `FX65` at the same I with the same X restores V0..VX to their prior values", whatever
happened to the registers in between. The wrap of the addresses is the spec's D5 (log 7). -/
def Obligations.BlockStoreThenLoadRestores : Prop :=
  ∀ (x : Nibble) (s t u : State), exec (.ldMemVx x) s = .next t → (∀ a, u.memRead a = t.memRead a) → u.i = s.i →
    ∃ w, exec (.ldVxMem x) u = .next w ∧ ∀ k : Nibble, k.toNat ≤ x.toNat → w.getV k = s.getV k

/-- R42, R50: a read returns the most recent write to that address, and addresses are the same when they agree modulo 4096 (the
wrap is the spec's D5, log 7). -/
def Obligations.ReadReturnsLastWrite : Prop :=
  ∀ (s : State) (a a' : Word) (b : Byte),
    (a.toNat % 4096 = a'.toNat % 4096 → (s.memWrite a b).memRead a' = b) ∧
    (a.toNat % 4096 ≠ a'.toNat % 4096 → (s.memWrite a b).memRead a' = s.memRead a')

/-- R52: "a byte written by FX33 or FX55 in Step `n` is the byte fetched in Step `n+1` if PC points there". A word stored by FX55
from V0 and V1 is the word fetched where it was stored. The wraps are the spec's D3 and D5 (log 5, log 7). -/
def Obligations.StoredWordIsFetched : Prop :=
  ∀ (x : Nibble) (s t u : State), 1 ≤ x.toNat → exec (.ldMemVx x) s = .next t → (∀ a, u.memRead a = t.memRead a) →
    u.pc = s.i → u.fetch = wordOfBytes (s.getV 0#4) (s.getV 1#4)

/-! ### Display -/

/-- R150 (00E0): every cell 0 and DU 1, always; VF, I, memory and every register unchanged. That no other word decodes to it is
the spec's D22 (log 16). -/
def Obligations.ClearScreen : Prop :=
  decode 0x00E0#16 = .instr .cls ∧
  (∀ op, decode op = .instr .cls → op = 0x00E0#16) ∧
  (∀ s, ∃ t, exec .cls s = .next t ∧ (∀ k, k < 2048 → t.fbAt k = false) ∧ t.du = true ∧ Frame [] [.fb, .du] s t)

/-- R157 and R154 (DXYN), the framebuffer as a formula: with `c = (px - VX) mod 64` and `r = (py - VY) mod 32`, each cell is
XORed with sprite bit `7 - c` of the byte at `I + r` where `c < 8` and `r < N`, and VF tells whether some such cell held 1. The wrap
is the spec's D10 (log 9), the bit order its D11 (log 10), the old VF as a coordinate its D12 (log 11). -/
def Obligations.SpriteFormula : Prop :=
  ∀ (x y n : Nibble) (s : State), ∃ t, exec (.drwVxVyN x y n) s = .next t ∧
    (∀ px py, px < 64 → py < 32 →
      t.fbAt (px + 64 * py) =
        (s.fbAt (px + 64 * py) ^^
          (decide ((((px : Int) - (s.getV x).toNat) % 64).toNat < 8) &&
            decide ((((py : Int) - (s.getV y).toNat) % 32).toNat < n.toNat) &&
            (s.memRead (s.dataAddr (((py : Int) - (s.getV y).toNat) % 32).toNat)).getLsbD
              (7 - (((px : Int) - (s.getV x).toNat) % 64).toNat)))) ∧
    (t.getV vF = 1#8 ∨ t.getV vF = 0#8) ∧
    (t.getV vF = 1#8 ↔ ∃ k, k < 2048 ∧ s.fbAt k = true ∧ t.fbAt k = false) ∧
    t.du = true ∧ Frame [vF] [.fb, .du] s t

/-- R154, `95_test_vectors.md` X9: drawing the same sprite again at the same place undoes it, "because drawing is XOR-based", and
the second draw reports a collision exactly when the first turned some pixel on. The wrap at the edges is the spec's D10 (log 9). -/
def Obligations.DrawingTwiceErases : Prop :=
  ∀ (x y n : Nibble) (s t u : State), exec (.drwVxVyN x y n) s = .next t →
    u.fb = t.fb → (∀ a, u.memRead a = s.memRead a) → u.i = s.i → u.getV x = s.getV x → u.getV y = s.getV y →
    ∃ w, exec (.drwVxVyN x y n) u = .next w ∧ w.fb = s.fb ∧
      (w.getV vF = 1#8 ↔ ∃ k, k < 2048 ∧ s.fbAt k = false ∧ t.fbAt k = true)

/-- R155, R18: "DU is set by every 00E0 and every DXYN, unconditionally" and by nothing else, so after a Step it is 1 exactly when
the Step executed one of them. -/
def Obligations.DisplayFlagMarksDrawing : Prop :=
  ∀ s t, s.fault = .none → step s = .next t →
    (t.du = true ↔ decode s.fetch = .instr .cls ∨ ∃ x y n, decode s.fetch = .instr (.drwVxVyN x y n))

/-! ### Keys and timers -/

/-- R160, R161, R166 (EX9E, EXA1): exactly one of the two skips; a key number above 15 is not pressed (the spec's D14, log 12); the
flag seen is consumed and no other flag changes. A skip is a further 2 on PC (R90), which wraps by its D3 (log 5). -/
def Obligations.KeySkips : Prop :=
  (∀ x s, ∃ t, exec (.skpVx x) s = .next t ∧ Frame [] [.pc, .keys] s t ∧
    ((∃ k : Nibble, k.toNat = (s.getV x).toNat ∧ s.keyAt k = true) → t.pc.toNat = (s.pc.toNat + 2) % 4096) ∧
    ((∀ k : Nibble, k.toNat = (s.getV x).toNat → s.keyAt k = false) → t.pc = s.pc) ∧
    (∀ k : Nibble, t.keyAt k = (s.keyAt k && decide (k.toNat ≠ (s.getV x).toNat)))) ∧
  (∀ x s, ∃ t, exec (.sknpVx x) s = .next t ∧ Frame [] [.pc, .keys] s t ∧
    ((∃ k : Nibble, k.toNat = (s.getV x).toNat ∧ s.keyAt k = true) → t.pc = s.pc) ∧
    ((∀ k : Nibble, k.toNat = (s.getV x).toNat → s.keyAt k = false) → t.pc.toNat = (s.pc.toNat + 2) % 4096) ∧
    (∀ k : Nibble, t.keyAt k = (s.keyAt k && decide (k.toNat ≠ (s.getV x).toNat))))

/-- R162, R166 (FX0A): with no key PC goes back by 2 and nothing else changes; else VX receives the lowest pressed key (the spec's
D15, log 13), which is consumed, and PC stays. The rewind wraps by its D3 (log 5). -/
def Obligations.WaitForKey : Prop :=
  ∀ x s, ∃ t, exec (.ldVxK x) s = .next t ∧
    ((∀ k, s.keyAt k = false) →
      (t.pc.toNat : Int) = ((s.pc.toNat : Int) - 2) % 4096 ∧ Frame [] [.pc] s t) ∧
    (∀ k : Nibble, s.keyAt k = true → (∀ q : Nibble, q.toNat < k.toNat → s.keyAt q = false) →
      (t.getV x).toNat = k.toNat ∧ t.pc = s.pc ∧
      (∀ q, t.keyAt q = (s.keyAt q && decide (q ≠ k))) ∧ Frame [x] [.keys] s t)

/-- `95_test_vectors.md` X6, R162: a Step of FX0A with no key leaves PC where it was while the timers count, and with a key it
advances PC and delivers the lowest pressed key (the spec's D15, log 13). That all 16 key flags are 0 afterwards is its D16 (log 14), the
wrap of PC its D3 (log 5). -/
def Obligations.WaitForKeyRetries : Prop :=
  ∀ x s, s.fault = .none → s.pc.toNat < 4096 → decode s.fetch = .instr (.ldVxK x) →
    ∃ t, step s = .next t ∧ t.dt.toNat = s.dt.toNat - 1 ∧ (∀ k, t.keyAt k = false) ∧
      ((∀ k, s.keyAt k = false) → t.pc = s.pc ∧ ∀ r, t.getV r = s.getV r) ∧
      (∀ k : Nibble, s.keyAt k = true → (∀ q : Nibble, q.toNat < k.toNat → s.keyAt q = false) →
        t.pc.toNat = (s.pc.toNat + 2) % 4096 ∧ (t.getV x).toNat = k.toNat)

/-- R88, R209: after a Step that did not fault all 16 key flags are 0, whatever the instruction was (the spec's D16, log 14). -/
def Obligations.KeyFlagsClearedByStep : Prop :=
  ∀ s t, s.fault = .none → step s = .next t → t.fault = .none → ∀ k, t.keyAt k = false

/-- R163, R164, R165 (FX07, FX15, FX18): the delay timer read and written, the sound timer written, the other timer untouched. -/
def Obligations.TimerAccess : Prop :=
  (∀ op, fieldT op = 0xF#4 → fieldNN op = 0x07#8 → decode op = .instr (.ldVxDt (fieldX op))) ∧
  (∀ op, fieldT op = 0xF#4 → fieldNN op = 0x15#8 → decode op = .instr (.ldDtVx (fieldX op))) ∧
  (∀ op, fieldT op = 0xF#4 → fieldNN op = 0x18#8 → decode op = .instr (.ldStVx (fieldX op))) ∧
  (∀ x s, ∃ t, exec (.ldVxDt x) s = .next t ∧ t.getV x = s.dt ∧ Frame [x] [] s t) ∧
  (∀ x s, ∃ t, exec (.ldDtVx x) s = .next t ∧ t.dt = s.getV x ∧ Frame [] [.dt] s t) ∧
  (∀ x s, ∃ t, exec (.ldStVx x) s = .next t ∧ t.st = s.getV x ∧ Frame [] [.st] s t)

/-- R85: both timers count down by 1 while above 0, once in every Step and before the instruction: only FX15 and FX18 leave another
value, the one they write, and FX07 reads the value already counted down. "The countdown is per Step and nothing else": Load and
KeyEvent leave both timers alone. -/
def Obligations.TimersCountEachStep : Prop :=
  (∀ (s : State) (bytes : List Byte), (s.hostLoad bytes).2.dt = s.dt ∧ (s.hostLoad bytes).2.st = s.st) ∧
  (∀ (s : State) (b : Byte), (s.hostKeyEvent b).2.dt = s.dt ∧ (s.hostKeyEvent b).2.st = s.st) ∧
  ∀ s t, s.fault = .none → step s = .next t →
    ((∀ x, decode s.fetch ≠ .instr (.ldDtVx x)) → t.dt.toNat = if s.dt.toNat > 0 then s.dt.toNat - 1 else 0) ∧
    ((∀ x, decode s.fetch ≠ .instr (.ldStVx x)) → t.st.toNat = if s.st.toNat > 0 then s.st.toNat - 1 else 0) ∧
    (∀ x, decode s.fetch = .instr (.ldDtVx x) → t.dt = s.getV x) ∧
    (∀ x, decode s.fetch = .instr (.ldStVx x) → t.st = s.getV x) ∧
    (∀ x, decode s.fetch = .instr (.ldVxDt x) →
      (t.getV x).toNat = if s.dt.toNat > 0 then s.dt.toNat - 1 else 0)

/-- R207: `n` Steps after the delay timer held `v`, with no FX15 among them, it holds `max(v - n, 0)`; and an FX07 in the last of
them reads that value. -/
def Obligations.DelayTimerRunsDown : Prop :=
  ∀ (n : Nat) (s : State), LeavesDelayTimer n s →
    ∃ t, core.run n s = .next t ∧ t.dt.toNat = s.dt.toNat - n ∧
      ∀ x u, t.fault = .none → decode t.fetch = .instr (.ldVxDt x) → step t = .next u →
        (u.getV x).toNat = s.dt.toNat - (n + 1)

/-! ### The Step -/

/-- R82: the two bytes at PC and PC + 1, big-endian, the addresses modulo 4096, whatever PC is. The wrap and odd addresses are the
spec's D3 and D26 (log 5). -/
def Obligations.FetchIsBigEndian : Prop :=
  ∀ s : State,
    s.fetch.toNat =
      256 * (Memory.read s.font s.mem (s.pc.toNat % 4096)).toNat +
        (Memory.read s.font s.mem ((s.pc.toNat + 1) % 4096)).toNat

/-- R81 to R86, R88, R91: when the bytes at PC decode to an instruction, the Step is that instruction on the state after phases 1
to 3, then phase 5 unless it raised a fault. The advance wraps by the spec's D3 (log 5); DIAG is its D21 (log 15); the key clear
its D16 (log 14); that phase 5 is skipped after a fault (R178) its D9 (log 8). -/
def Obligations.StepRunsDecodedInstruction : Prop :=
  ∀ (s p t : State) (i : Instr), s.fault = .none →
    decode (wordOfBytes (s.memRead s.pc) (s.memRead (s.pc + 1#16))) = .instr i →
    p.pc.toNat = (s.pc.toNat + 2) % 4096 → p.du = false → p.diagValid = false → p.diagOpcode = s.diagOpcode →
    p.dt.toNat = s.dt.toNat - 1 → p.st.toNat = s.st.toNat - 1 →
    p.v = s.v → p.i = s.i → p.stack = s.stack → p.stackFree = s.stackFree → p.mem = s.mem → p.fb = s.fb →
    p.key = s.key → p.fault = s.fault → p.draws = s.draws → p.font = s.font →
    exec i p = .next t →
      (t.fault = .none → step s = .next { t with key := Vector.replicate 16 false }) ∧
      (t.fault ≠ .none → step s = .next t)

/-- R87: an unrecognised word is a no-op that reports itself: PC advances, the timers count, DU and the key flags are cleared, and
nothing else changes. The form of the report is the spec's D21 (log 15), the clear of all key flags its D16 (log 14), the wrap of PC its
D3 (log 5). -/
def Obligations.UnrecognisedWordIsNoOp : Prop :=
  ∀ s, s.fault = .none → decode s.fetch = .unrecognised s.fetch →
    ∃ t, step s = .next t ∧ t.diagValid = true ∧ t.diagOpcode = s.fetch ∧
      t.pc.toNat = (s.pc.toNat + 2) % 4096 ∧ t.dt.toNat = s.dt.toNat - 1 ∧ t.st.toNat = s.st.toNat - 1 ∧
      t.du = false ∧ (∀ k, t.keyAt k = false) ∧ Frame [] [.pc, .dt, .st, .du, .keys, .diag] s t

/-- R91, R80: the Step is total, it "never blocks", and so does every instruction in phase 4: each always gives a next state.
A stack fault is such a state too (the spec's D9, log 8). -/
def Obligations.EveryStepCompletes : Prop :=
  (∀ s : State, ∃ t, step s = .next t) ∧ (∀ (i : Instr) (s : State), ∃ t, exec i s = .next t) ∧
  (∀ (n : Nat) (s : State), ∃ t, core.run n s = .next t)

/-- R109: PC after a Step that executed the instruction at address `a` without fault. The wraps are the spec's D3 (log 5); that
EX9E and EXA1 take a key number above 15 as not pressed is its D14 (log 12). -/
def Obligations.CounterAfterStep : Prop :=
  ∀ s t, s.fault = .none → s.pc.toNat < 4096 → step s = .next t → t.fault = .none →
    match decode s.fetch with
    | .instr (.jpNnn nnn) => t.pc.toNat = nnn.toNat
    | .instr (.callNnn nnn) => t.pc.toNat = nnn.toNat
    | .instr (.jpV0Nnn nnn) => t.pc.toNat = (nnn.toNat + (s.getV 0#4).toNat) % 4096
    | .instr .ret => ∃ w rest, s.stack = w :: rest ∧ t.pc.toNat = w.toNat % 4096
    | .instr (.seVxNn x nn) => t.pc.toNat = (s.pc.toNat + if s.getV x = nn then 4 else 2) % 4096
    | .instr (.sneVxNn x nn) => t.pc.toNat = (s.pc.toNat + if s.getV x ≠ nn then 4 else 2) % 4096
    | .instr (.seVxVy x y) => t.pc.toNat = (s.pc.toNat + if s.getV x = s.getV y then 4 else 2) % 4096
    | .instr (.sneVxVy x y) => t.pc.toNat = (s.pc.toNat + if s.getV x ≠ s.getV y then 4 else 2) % 4096
    | .instr (.skpVx x) =>
      t.pc.toNat = (s.pc.toNat +
        if ∃ k : Nibble, k.toNat = (s.getV x).toNat ∧ s.keyAt k = true then 4 else 2) % 4096
    | .instr (.sknpVx x) =>
      t.pc.toNat = (s.pc.toNat +
        if ∃ k : Nibble, k.toNat = (s.getV x).toNat ∧ s.keyAt k = true then 2 else 4) % 4096
    | .instr (.ldVxK _) =>
      t.pc.toNat = if ∃ k, s.keyAt k = true then (s.pc.toNat + 2) % 4096 else s.pc.toNat
    | _ => t.pc.toNat = (s.pc.toNat + 2) % 4096

/-- R101 corner case, R215: a jump to its own address repeats for ever: every register, I, SP, MEM and FB stay, PC stays, and the
timers run down. That no key flag is left after a Step is the spec's D16 (log 14). -/
def Obligations.JumpToSelfOnlyCountsTimers : Prop :=
  ∀ (nnn : Addr) (s : State) (n : Nat), s.fault = .none → s.pc.toNat = nnn.toNat →
    decode s.fetch = .instr (.jpNnn nnn) →
    ∃ t, core.run n s = .next t ∧ t.pc = s.pc ∧ t.dt.toNat = s.dt.toNat - n ∧ t.st.toNat = s.st.toNat - n ∧
      (0 < n → t.du = false ∧ ∀ k, t.keyAt k = false) ∧
      Frame [] [.dt, .st, .du, .keys, .diag] s t

/-! ### The whole machine -/

/-- R24, R26: the state right after reset meets the invariant. That I and the stack entries are 0 there is the spec's D17 (log 4), that I,
PC and the entries stay below 4096 its D3 and D4 (log 5, log 6), and the form of memory is the model's (log 20). -/
def Obligations.ResetMeetsTheInvariant : Prop := State.reset.Inv

/-- R24 (with D3, D4, log 5, log 6, and the canonical memory of log 20): every Step, from every state that meets the invariant, gives a
state that meets it. -/
def Obligations.StepKeepsTheInvariant : Prop :=
  ∀ s t : State, s.Inv → step s = .next t → t.Inv

/-- R24: "So after any transaction": every sequence of Reset, Load, KeyEvent and Step, from every state that meets the invariant, keeps
it; and none of them changes the parameters: how many entries the call stack can hold, and FONT (R5, R23; log 24). -/
def Obligations.TransactionsKeepTheInvariant : Prop :=
  ∀ (ts : List Transaction) (s : State), s.Inv →
    (runTransactions ts s).Inv ∧ (runTransactions ts s).stackDepth = s.stackDepth ∧
      (runTransactions ts s).font = s.font

/-- R10, R11, R13, R41, R44, R147, R167, R170: for every instruction, which V registers and which other parts of the machine it may
change at all: every flag, special register, stack entry, cell and byte outside its own row is unchanged. -/
def Obligations.InstructionsChangeOnlyTheirOwn : Prop :=
  ∀ (i : Instr) (s t : State), exec i s = .next t → Frame (destinations i) (touchedParts i) s t

/-- R147: I after each instruction (the mask is the spec's D4, log 6). -/
def Obligations.IndexAfterInstruction : Prop :=
  ∀ (i : Instr) (s t : State), exec i s = .next t →
    match i with
    | .ldINnn nnn => t.i.toNat = nnn.toNat
    | .addIVx x => t.i.toNat = (s.i.toNat + (s.getV x).toNat) % 4096
    | .ldFVx x => t.i.toNat = 5 * (s.getV x).toNat
    | .ldMemVx x => t.i.toNat = (s.i.toNat + x.toNat + 1) % 4096
    | .ldVxMem x => t.i.toNat = (s.i.toNat + x.toNat + 1) % 4096
    | _ => t.i = s.i

/-- R167: "There is no instruction that sets a key flag": over any number of Steps no flag goes from 0 to 1. -/
def Obligations.ProgramNeverPressesKeys : Prop :=
  ∀ (n : Nat) (s t : State) (k : Nibble), core.run n s = .next t → t.keyAt k = true → s.keyAt k = true

/-- R16, R167: "No instruction reads" the sound timer: from two states that differ in ST only, every run gives states that differ in ST
only. -/
def Obligations.SoundTimerIsNeverRead : Prop :=
  ∀ (n : Nat) (s : State) (b : Byte),
    ∃ t b', core.run n s = .next t ∧ core.run n { s with st := b } = .next { t with st := b' }

/-- R21: "No instruction reads DIAG and no rule's result depends on it": from two states that differ in DIAG only, every run gives states
that differ in DIAG only. -/
def Obligations.DiagnosticFeedsNothing : Prop :=
  ∀ (n : Nat) (s : State) (b : Bool) (w : Word),
    ∃ t b' w', core.run n s = .next t ∧
      core.run n { s with diagValid := b, diagOpcode := w } = .next { t with diagValid := b', diagOpcode := w' }

/-! ### Reset, Load, KeyEvent -/

/-- R26, R200: Reset() from any state whatever lays the whole reset table for the configured FONT and STACK_DEPTH, every stack entry
and every byte of memory included, and the machine right after power-on has the same table for the defaults. PC and the zeroed memory are
stated; every other zero is the spec's D17, D9, D21 (log 4, log 8, log 15); that Reset() is construction is its D18 (log 18). FONT is a
parameter (D19, log 24): the clause on Reset() holds for any 80 bytes, the clause on `State.reset` names the default FONT (log 2) and the
default depth 16 (log 1). The count of draws is kept (log 3). -/
def Obligations.ResetTable : Prop :=
  (∀ s : State, IsReset s.font s.stackDepth s.hostReset ∧ s.hostReset.draws = s.draws) ∧
  IsReset defaultFont 16 State.reset

/-- R202: an image of at most 3584 bytes is copied to memory from 512 on and nothing else changes; an empty image changes nothing.
That it may come at any time between two Steps is the spec's D23 (log 18). -/
def Obligations.LoadCopiesImage : Prop :=
  ∀ (s : State) (bytes : List Byte), bytes.length ≤ 3584 →
    ∃ t, s.hostLoad bytes = (.ok, t) ∧
      (∀ k, (h : k < bytes.length) → Memory.read t.font t.mem (512 + k) = bytes[k]) ∧
      (∀ a, a < 512 ∨ 512 + bytes.length ≤ a → a < 4096 → Memory.read t.font t.mem a = Memory.read s.font s.mem a) ∧
      Frame [] [.mem] s t ∧ (bytes = [] → t = s)

/-- R203, R173: a longer image fails with OutOfSpace, code 3 (R170; the code is the spec's D9, log 8), and every state is exactly as before (the spec's D23, log 18). -/
def Obligations.OversizeLoadWritesNothing : Prop :=
  ∀ (s : State) (bytes : List Byte), 3584 < bytes.length → s.hostLoad bytes = (.outOfSpace, s) ∧ LoadStatus.outOfSpace.code = some 3

/-- R201, R205, `95_test_vectors.md` X7: after Reset and a successful Load the first Step fetches the first two bytes of the image, high
byte first. That Reset clears FAULT whatever ran before is the spec's D18 (log 18). -/
def Obligations.FirstFetchIsTheImage : Prop :=
  ∀ (s t : State) (hi lo : Byte) (rest : List Byte), s.hostReset.hostLoad (hi :: lo :: rest) = (.ok, t) →
    t.fault = .none ∧ t.pc.toNat = 512 ∧ t.fetch = wordOfBytes hi lo

/-- R187, R188: a key byte 0..15 sets that flag and no other; 255 emits the exit event and changes no state; every other byte does
nothing. -/
def Obligations.KeyEventSetsOneFlag : Prop :=
  (∀ (s : State) (k : Nibble), ∃ t, s.hostKeyEvent (k.setWidth 8) = (.silent, t) ∧ t.keyAt k = true ∧
    (∀ q, q ≠ k → t.keyAt q = s.keyAt q) ∧ Frame [] [.keys] s t) ∧
  (∀ s : State, s.hostKeyEvent 0xFF#8 = (.exitEvent, s)) ∧
  (∀ (s : State) (b : Byte), 16 ≤ b.toNat → b.toNat ≤ 254 → s.hostKeyEvent b = (.silent, s))
end

