-- ==== Sys2Proof/Laws/State.lean ====
section
/-! SUPPORT. One lemma per field per update of `State`: what each update writes and what it leaves alone. -/

namespace Sys2Proof.Machine

variable (s : State)

/-! ### setV -/

@[simp] theorem State.setV_v (r : Nibble) (b : Byte) : (s.setV r b).v = s.v.set r.toNat b := rfl
@[simp] theorem State.setV_i (r : Nibble) (b : Byte) : (s.setV r b).i = s.i := rfl
@[simp] theorem State.setV_pc (r : Nibble) (b : Byte) : (s.setV r b).pc = s.pc := rfl
@[simp] theorem State.setV_stack (r : Nibble) (b : Byte) : (s.setV r b).stack = s.stack := rfl
@[simp] theorem State.setV_stackFree (r : Nibble) (b : Byte) : (s.setV r b).stackFree = s.stackFree := rfl
@[simp] theorem State.setV_dt (r : Nibble) (b : Byte) : (s.setV r b).dt = s.dt := rfl
@[simp] theorem State.setV_st (r : Nibble) (b : Byte) : (s.setV r b).st = s.st := rfl
@[simp] theorem State.setV_font (r : Nibble) (b : Byte) : (s.setV r b).font = s.font := rfl
@[simp] theorem State.setV_mem (r : Nibble) (b : Byte) : (s.setV r b).mem = s.mem := rfl
@[simp] theorem State.setV_fb (r : Nibble) (b : Byte) : (s.setV r b).fb = s.fb := rfl
@[simp] theorem State.setV_du (r : Nibble) (b : Byte) : (s.setV r b).du = s.du := rfl
@[simp] theorem State.setV_key (r : Nibble) (b : Byte) : (s.setV r b).key = s.key := rfl
@[simp] theorem State.setV_fault (r : Nibble) (b : Byte) : (s.setV r b).fault = s.fault := rfl
@[simp] theorem State.setV_diagValid (r : Nibble) (b : Byte) : (s.setV r b).diagValid = s.diagValid := rfl
@[simp] theorem State.setV_diagOpcode (r : Nibble) (b : Byte) : (s.setV r b).diagOpcode = s.diagOpcode := rfl
@[simp] theorem State.setV_draws (r : Nibble) (b : Byte) : (s.setV r b).draws = s.draws := rfl

/-! ### setI -/

@[simp] theorem State.setI_v (w : Word) : (s.setI w).v = s.v := rfl
@[simp] theorem State.setI_i (w : Word) : (s.setI w).i = mask12 w := rfl
@[simp] theorem State.setI_pc (w : Word) : (s.setI w).pc = s.pc := rfl
@[simp] theorem State.setI_stack (w : Word) : (s.setI w).stack = s.stack := rfl
@[simp] theorem State.setI_stackFree (w : Word) : (s.setI w).stackFree = s.stackFree := rfl
@[simp] theorem State.setI_dt (w : Word) : (s.setI w).dt = s.dt := rfl
@[simp] theorem State.setI_st (w : Word) : (s.setI w).st = s.st := rfl
@[simp] theorem State.setI_font (w : Word) : (s.setI w).font = s.font := rfl
@[simp] theorem State.setI_mem (w : Word) : (s.setI w).mem = s.mem := rfl
@[simp] theorem State.setI_fb (w : Word) : (s.setI w).fb = s.fb := rfl
@[simp] theorem State.setI_du (w : Word) : (s.setI w).du = s.du := rfl
@[simp] theorem State.setI_key (w : Word) : (s.setI w).key = s.key := rfl
@[simp] theorem State.setI_fault (w : Word) : (s.setI w).fault = s.fault := rfl
@[simp] theorem State.setI_diagValid (w : Word) : (s.setI w).diagValid = s.diagValid := rfl
@[simp] theorem State.setI_diagOpcode (w : Word) : (s.setI w).diagOpcode = s.diagOpcode := rfl
@[simp] theorem State.setI_draws (w : Word) : (s.setI w).draws = s.draws := rfl

/-! ### setPc -/

@[simp] theorem State.setPc_v (w : Word) : (s.setPc w).v = s.v := rfl
@[simp] theorem State.setPc_i (w : Word) : (s.setPc w).i = s.i := rfl
@[simp] theorem State.setPc_pc (w : Word) : (s.setPc w).pc = mask12 w := rfl
@[simp] theorem State.setPc_stack (w : Word) : (s.setPc w).stack = s.stack := rfl
@[simp] theorem State.setPc_stackFree (w : Word) : (s.setPc w).stackFree = s.stackFree := rfl
@[simp] theorem State.setPc_dt (w : Word) : (s.setPc w).dt = s.dt := rfl
@[simp] theorem State.setPc_st (w : Word) : (s.setPc w).st = s.st := rfl
@[simp] theorem State.setPc_font (w : Word) : (s.setPc w).font = s.font := rfl
@[simp] theorem State.setPc_mem (w : Word) : (s.setPc w).mem = s.mem := rfl
@[simp] theorem State.setPc_fb (w : Word) : (s.setPc w).fb = s.fb := rfl
@[simp] theorem State.setPc_du (w : Word) : (s.setPc w).du = s.du := rfl
@[simp] theorem State.setPc_key (w : Word) : (s.setPc w).key = s.key := rfl
@[simp] theorem State.setPc_fault (w : Word) : (s.setPc w).fault = s.fault := rfl
@[simp] theorem State.setPc_diagValid (w : Word) : (s.setPc w).diagValid = s.diagValid := rfl
@[simp] theorem State.setPc_diagOpcode (w : Word) : (s.setPc w).diagOpcode = s.diagOpcode := rfl
@[simp] theorem State.setPc_draws (w : Word) : (s.setPc w).draws = s.draws := rfl

/-! ### setDt -/

@[simp] theorem State.setDt_v (b : Byte) : (s.setDt b).v = s.v := rfl
@[simp] theorem State.setDt_i (b : Byte) : (s.setDt b).i = s.i := rfl
@[simp] theorem State.setDt_pc (b : Byte) : (s.setDt b).pc = s.pc := rfl
@[simp] theorem State.setDt_stack (b : Byte) : (s.setDt b).stack = s.stack := rfl
@[simp] theorem State.setDt_stackFree (b : Byte) : (s.setDt b).stackFree = s.stackFree := rfl
@[simp] theorem State.setDt_dt (b : Byte) : (s.setDt b).dt = b := rfl
@[simp] theorem State.setDt_st (b : Byte) : (s.setDt b).st = s.st := rfl
@[simp] theorem State.setDt_font (b : Byte) : (s.setDt b).font = s.font := rfl
@[simp] theorem State.setDt_mem (b : Byte) : (s.setDt b).mem = s.mem := rfl
@[simp] theorem State.setDt_fb (b : Byte) : (s.setDt b).fb = s.fb := rfl
@[simp] theorem State.setDt_du (b : Byte) : (s.setDt b).du = s.du := rfl
@[simp] theorem State.setDt_key (b : Byte) : (s.setDt b).key = s.key := rfl
@[simp] theorem State.setDt_fault (b : Byte) : (s.setDt b).fault = s.fault := rfl
@[simp] theorem State.setDt_diagValid (b : Byte) : (s.setDt b).diagValid = s.diagValid := rfl
@[simp] theorem State.setDt_diagOpcode (b : Byte) : (s.setDt b).diagOpcode = s.diagOpcode := rfl
@[simp] theorem State.setDt_draws (b : Byte) : (s.setDt b).draws = s.draws := rfl

/-! ### setSt -/

@[simp] theorem State.setSt_v (b : Byte) : (s.setSt b).v = s.v := rfl
@[simp] theorem State.setSt_i (b : Byte) : (s.setSt b).i = s.i := rfl
@[simp] theorem State.setSt_pc (b : Byte) : (s.setSt b).pc = s.pc := rfl
@[simp] theorem State.setSt_stack (b : Byte) : (s.setSt b).stack = s.stack := rfl
@[simp] theorem State.setSt_stackFree (b : Byte) : (s.setSt b).stackFree = s.stackFree := rfl
@[simp] theorem State.setSt_dt (b : Byte) : (s.setSt b).dt = s.dt := rfl
@[simp] theorem State.setSt_st (b : Byte) : (s.setSt b).st = b := rfl
@[simp] theorem State.setSt_font (b : Byte) : (s.setSt b).font = s.font := rfl
@[simp] theorem State.setSt_mem (b : Byte) : (s.setSt b).mem = s.mem := rfl
@[simp] theorem State.setSt_fb (b : Byte) : (s.setSt b).fb = s.fb := rfl
@[simp] theorem State.setSt_du (b : Byte) : (s.setSt b).du = s.du := rfl
@[simp] theorem State.setSt_key (b : Byte) : (s.setSt b).key = s.key := rfl
@[simp] theorem State.setSt_fault (b : Byte) : (s.setSt b).fault = s.fault := rfl
@[simp] theorem State.setSt_diagValid (b : Byte) : (s.setSt b).diagValid = s.diagValid := rfl
@[simp] theorem State.setSt_diagOpcode (b : Byte) : (s.setSt b).diagOpcode = s.diagOpcode := rfl
@[simp] theorem State.setSt_draws (b : Byte) : (s.setSt b).draws = s.draws := rfl

/-! ### memWrite -/

@[simp] theorem State.memWrite_v (a : Word) (b : Byte) : (s.memWrite a b).v = s.v := rfl
@[simp] theorem State.memWrite_i (a : Word) (b : Byte) : (s.memWrite a b).i = s.i := rfl
@[simp] theorem State.memWrite_pc (a : Word) (b : Byte) : (s.memWrite a b).pc = s.pc := rfl
@[simp] theorem State.memWrite_stack (a : Word) (b : Byte) : (s.memWrite a b).stack = s.stack := rfl
@[simp] theorem State.memWrite_stackFree (a : Word) (b : Byte) : (s.memWrite a b).stackFree = s.stackFree := rfl
@[simp] theorem State.memWrite_dt (a : Word) (b : Byte) : (s.memWrite a b).dt = s.dt := rfl
@[simp] theorem State.memWrite_st (a : Word) (b : Byte) : (s.memWrite a b).st = s.st := rfl
@[simp] theorem State.memWrite_font (a : Word) (b : Byte) : (s.memWrite a b).font = s.font := rfl
@[simp] theorem State.memWrite_mem (a : Word) (b : Byte) : (s.memWrite a b).mem = Memory.write s.font s.mem (mask12 a).toNat b := rfl
@[simp] theorem State.memWrite_fb (a : Word) (b : Byte) : (s.memWrite a b).fb = s.fb := rfl
@[simp] theorem State.memWrite_du (a : Word) (b : Byte) : (s.memWrite a b).du = s.du := rfl
@[simp] theorem State.memWrite_key (a : Word) (b : Byte) : (s.memWrite a b).key = s.key := rfl
@[simp] theorem State.memWrite_fault (a : Word) (b : Byte) : (s.memWrite a b).fault = s.fault := rfl
@[simp] theorem State.memWrite_diagValid (a : Word) (b : Byte) : (s.memWrite a b).diagValid = s.diagValid := rfl
@[simp] theorem State.memWrite_diagOpcode (a : Word) (b : Byte) : (s.memWrite a b).diagOpcode = s.diagOpcode := rfl
@[simp] theorem State.memWrite_draws (a : Word) (b : Byte) : (s.memWrite a b).draws = s.draws := rfl

/-! ### raise -/

@[simp] theorem State.raise_v (f : FaultStatus) : (s.raise f).v = s.v := rfl
@[simp] theorem State.raise_i (f : FaultStatus) : (s.raise f).i = s.i := rfl
@[simp] theorem State.raise_pc (f : FaultStatus) : (s.raise f).pc = s.pc := rfl
@[simp] theorem State.raise_stack (f : FaultStatus) : (s.raise f).stack = s.stack := rfl
@[simp] theorem State.raise_stackFree (f : FaultStatus) : (s.raise f).stackFree = s.stackFree := rfl
@[simp] theorem State.raise_dt (f : FaultStatus) : (s.raise f).dt = s.dt := rfl
@[simp] theorem State.raise_st (f : FaultStatus) : (s.raise f).st = s.st := rfl
@[simp] theorem State.raise_font (f : FaultStatus) : (s.raise f).font = s.font := rfl
@[simp] theorem State.raise_mem (f : FaultStatus) : (s.raise f).mem = s.mem := rfl
@[simp] theorem State.raise_fb (f : FaultStatus) : (s.raise f).fb = s.fb := rfl
@[simp] theorem State.raise_du (f : FaultStatus) : (s.raise f).du = s.du := rfl
@[simp] theorem State.raise_key (f : FaultStatus) : (s.raise f).key = s.key := rfl
@[simp] theorem State.raise_fault (f : FaultStatus) : (s.raise f).fault = f := rfl
@[simp] theorem State.raise_diagValid (f : FaultStatus) : (s.raise f).diagValid = s.diagValid := rfl
@[simp] theorem State.raise_diagOpcode (f : FaultStatus) : (s.raise f).diagOpcode = s.diagOpcode := rfl
@[simp] theorem State.raise_draws (f : FaultStatus) : (s.raise f).draws = s.draws := rfl

/-! ### setKey -/

@[simp] theorem State.setKey_v (k : Nibble) (b : Bool) : (s.setKey k b).v = s.v := rfl
@[simp] theorem State.setKey_i (k : Nibble) (b : Bool) : (s.setKey k b).i = s.i := rfl
@[simp] theorem State.setKey_pc (k : Nibble) (b : Bool) : (s.setKey k b).pc = s.pc := rfl
@[simp] theorem State.setKey_stack (k : Nibble) (b : Bool) : (s.setKey k b).stack = s.stack := rfl
@[simp] theorem State.setKey_stackFree (k : Nibble) (b : Bool) : (s.setKey k b).stackFree = s.stackFree := rfl
@[simp] theorem State.setKey_dt (k : Nibble) (b : Bool) : (s.setKey k b).dt = s.dt := rfl
@[simp] theorem State.setKey_st (k : Nibble) (b : Bool) : (s.setKey k b).st = s.st := rfl
@[simp] theorem State.setKey_font (k : Nibble) (b : Bool) : (s.setKey k b).font = s.font := rfl
@[simp] theorem State.setKey_mem (k : Nibble) (b : Bool) : (s.setKey k b).mem = s.mem := rfl
@[simp] theorem State.setKey_fb (k : Nibble) (b : Bool) : (s.setKey k b).fb = s.fb := rfl
@[simp] theorem State.setKey_du (k : Nibble) (b : Bool) : (s.setKey k b).du = s.du := rfl
@[simp] theorem State.setKey_key (k : Nibble) (b : Bool) : (s.setKey k b).key = s.key.set k.toNat b := rfl
@[simp] theorem State.setKey_fault (k : Nibble) (b : Bool) : (s.setKey k b).fault = s.fault := rfl
@[simp] theorem State.setKey_diagValid (k : Nibble) (b : Bool) : (s.setKey k b).diagValid = s.diagValid := rfl
@[simp] theorem State.setKey_diagOpcode (k : Nibble) (b : Bool) : (s.setKey k b).diagOpcode = s.diagOpcode := rfl
@[simp] theorem State.setKey_draws (k : Nibble) (b : Bool) : (s.setKey k b).draws = s.draws := rfl

/-! ### clearKeys -/

@[simp] theorem State.clearKeys_v : (s.clearKeys).v = s.v := rfl
@[simp] theorem State.clearKeys_i : (s.clearKeys).i = s.i := rfl
@[simp] theorem State.clearKeys_pc : (s.clearKeys).pc = s.pc := rfl
@[simp] theorem State.clearKeys_stack : (s.clearKeys).stack = s.stack := rfl
@[simp] theorem State.clearKeys_stackFree : (s.clearKeys).stackFree = s.stackFree := rfl
@[simp] theorem State.clearKeys_dt : (s.clearKeys).dt = s.dt := rfl
@[simp] theorem State.clearKeys_st : (s.clearKeys).st = s.st := rfl
@[simp] theorem State.clearKeys_font : (s.clearKeys).font = s.font := rfl
@[simp] theorem State.clearKeys_mem : (s.clearKeys).mem = s.mem := rfl
@[simp] theorem State.clearKeys_fb : (s.clearKeys).fb = s.fb := rfl
@[simp] theorem State.clearKeys_du : (s.clearKeys).du = s.du := rfl
@[simp] theorem State.clearKeys_key : (s.clearKeys).key = Vector.replicate 16 false := rfl
@[simp] theorem State.clearKeys_fault : (s.clearKeys).fault = s.fault := rfl
@[simp] theorem State.clearKeys_diagValid : (s.clearKeys).diagValid = s.diagValid := rfl
@[simp] theorem State.clearKeys_diagOpcode : (s.clearKeys).diagOpcode = s.diagOpcode := rfl
@[simp] theorem State.clearKeys_draws : (s.clearKeys).draws = s.draws := rfl

/-! ### setDisplay -/

@[simp] theorem State.setDisplay_v (fb : BitVec Config.fbCells) : (s.setDisplay fb).v = s.v := rfl
@[simp] theorem State.setDisplay_i (fb : BitVec Config.fbCells) : (s.setDisplay fb).i = s.i := rfl
@[simp] theorem State.setDisplay_pc (fb : BitVec Config.fbCells) : (s.setDisplay fb).pc = s.pc := rfl
@[simp] theorem State.setDisplay_stack (fb : BitVec Config.fbCells) : (s.setDisplay fb).stack = s.stack := rfl
@[simp] theorem State.setDisplay_stackFree (fb : BitVec Config.fbCells) : (s.setDisplay fb).stackFree = s.stackFree := rfl
@[simp] theorem State.setDisplay_dt (fb : BitVec Config.fbCells) : (s.setDisplay fb).dt = s.dt := rfl
@[simp] theorem State.setDisplay_st (fb : BitVec Config.fbCells) : (s.setDisplay fb).st = s.st := rfl
@[simp] theorem State.setDisplay_font (fb : BitVec Config.fbCells) : (s.setDisplay fb).font = s.font := rfl
@[simp] theorem State.setDisplay_mem (fb : BitVec Config.fbCells) : (s.setDisplay fb).mem = s.mem := rfl
@[simp] theorem State.setDisplay_fb (fb : BitVec Config.fbCells) : (s.setDisplay fb).fb = fb := rfl
@[simp] theorem State.setDisplay_du (fb : BitVec Config.fbCells) : (s.setDisplay fb).du = true := rfl
@[simp] theorem State.setDisplay_key (fb : BitVec Config.fbCells) : (s.setDisplay fb).key = s.key := rfl
@[simp] theorem State.setDisplay_fault (fb : BitVec Config.fbCells) : (s.setDisplay fb).fault = s.fault := rfl
@[simp] theorem State.setDisplay_diagValid (fb : BitVec Config.fbCells) : (s.setDisplay fb).diagValid = s.diagValid := rfl
@[simp] theorem State.setDisplay_diagOpcode (fb : BitVec Config.fbCells) : (s.setDisplay fb).diagOpcode = s.diagOpcode := rfl
@[simp] theorem State.setDisplay_draws (fb : BitVec Config.fbCells) : (s.setDisplay fb).draws = s.draws := rfl

/-! ### clearStepFlags -/

@[simp] theorem State.clearStepFlags_v : (s.clearStepFlags).v = s.v := rfl
@[simp] theorem State.clearStepFlags_i : (s.clearStepFlags).i = s.i := rfl
@[simp] theorem State.clearStepFlags_pc : (s.clearStepFlags).pc = s.pc := rfl
@[simp] theorem State.clearStepFlags_stack : (s.clearStepFlags).stack = s.stack := rfl
@[simp] theorem State.clearStepFlags_stackFree : (s.clearStepFlags).stackFree = s.stackFree := rfl
@[simp] theorem State.clearStepFlags_dt : (s.clearStepFlags).dt = s.dt := rfl
@[simp] theorem State.clearStepFlags_st : (s.clearStepFlags).st = s.st := rfl
@[simp] theorem State.clearStepFlags_font : (s.clearStepFlags).font = s.font := rfl
@[simp] theorem State.clearStepFlags_mem : (s.clearStepFlags).mem = s.mem := rfl
@[simp] theorem State.clearStepFlags_fb : (s.clearStepFlags).fb = s.fb := rfl
@[simp] theorem State.clearStepFlags_du : (s.clearStepFlags).du = false := rfl
@[simp] theorem State.clearStepFlags_key : (s.clearStepFlags).key = s.key := rfl
@[simp] theorem State.clearStepFlags_fault : (s.clearStepFlags).fault = s.fault := rfl
@[simp] theorem State.clearStepFlags_diagValid : (s.clearStepFlags).diagValid = false := rfl
@[simp] theorem State.clearStepFlags_diagOpcode : (s.clearStepFlags).diagOpcode = s.diagOpcode := rfl
@[simp] theorem State.clearStepFlags_draws : (s.clearStepFlags).draws = s.draws := rfl

/-! ### countTimers -/

@[simp] theorem State.countTimers_v : (s.countTimers).v = s.v := rfl
@[simp] theorem State.countTimers_i : (s.countTimers).i = s.i := rfl
@[simp] theorem State.countTimers_pc : (s.countTimers).pc = s.pc := rfl
@[simp] theorem State.countTimers_stack : (s.countTimers).stack = s.stack := rfl
@[simp] theorem State.countTimers_stackFree : (s.countTimers).stackFree = s.stackFree := rfl
@[simp] theorem State.countTimers_dt : (s.countTimers).dt = countdown s.dt := rfl
@[simp] theorem State.countTimers_st : (s.countTimers).st = countdown s.st := rfl
@[simp] theorem State.countTimers_font : (s.countTimers).font = s.font := rfl
@[simp] theorem State.countTimers_mem : (s.countTimers).mem = s.mem := rfl
@[simp] theorem State.countTimers_fb : (s.countTimers).fb = s.fb := rfl
@[simp] theorem State.countTimers_du : (s.countTimers).du = s.du := rfl
@[simp] theorem State.countTimers_key : (s.countTimers).key = s.key := rfl
@[simp] theorem State.countTimers_fault : (s.countTimers).fault = s.fault := rfl
@[simp] theorem State.countTimers_diagValid : (s.countTimers).diagValid = s.diagValid := rfl
@[simp] theorem State.countTimers_diagOpcode : (s.countTimers).diagOpcode = s.diagOpcode := rfl
@[simp] theorem State.countTimers_draws : (s.countTimers).draws = s.draws := rfl

/-! ### reportUnrecognised -/

@[simp] theorem State.reportUnrecognised_v (op : Word) : (s.reportUnrecognised op).v = s.v := rfl
@[simp] theorem State.reportUnrecognised_i (op : Word) : (s.reportUnrecognised op).i = s.i := rfl
@[simp] theorem State.reportUnrecognised_pc (op : Word) : (s.reportUnrecognised op).pc = s.pc := rfl
@[simp] theorem State.reportUnrecognised_stack (op : Word) : (s.reportUnrecognised op).stack = s.stack := rfl
@[simp] theorem State.reportUnrecognised_stackFree (op : Word) : (s.reportUnrecognised op).stackFree = s.stackFree := rfl
@[simp] theorem State.reportUnrecognised_dt (op : Word) : (s.reportUnrecognised op).dt = s.dt := rfl
@[simp] theorem State.reportUnrecognised_st (op : Word) : (s.reportUnrecognised op).st = s.st := rfl
@[simp] theorem State.reportUnrecognised_font (op : Word) : (s.reportUnrecognised op).font = s.font := rfl
@[simp] theorem State.reportUnrecognised_mem (op : Word) : (s.reportUnrecognised op).mem = s.mem := rfl
@[simp] theorem State.reportUnrecognised_fb (op : Word) : (s.reportUnrecognised op).fb = s.fb := rfl
@[simp] theorem State.reportUnrecognised_du (op : Word) : (s.reportUnrecognised op).du = s.du := rfl
@[simp] theorem State.reportUnrecognised_key (op : Word) : (s.reportUnrecognised op).key = s.key := rfl
@[simp] theorem State.reportUnrecognised_fault (op : Word) : (s.reportUnrecognised op).fault = s.fault := rfl
@[simp] theorem State.reportUnrecognised_diagValid (op : Word) : (s.reportUnrecognised op).diagValid = true := rfl
@[simp] theorem State.reportUnrecognised_diagOpcode (op : Word) : (s.reportUnrecognised op).diagOpcode = op := rfl
@[simp] theorem State.reportUnrecognised_draws (op : Word) : (s.reportUnrecognised op).draws = s.draws := rfl

end Sys2Proof.Machine
end

