-- ==== Sys2Proof/Laws/Memory.lean ====
section
/-! SUPPORT. The laws of memory: a read after a write (R50), and the canonical form kept by every write. -/

namespace Sys2Proof.Machine

/-! ### Addresses -/

theorem mask12_toNat (w : Word) : (mask12 w).toNat = w.toNat % 4096 := by
  rw [mask12, BitVec.toNat_and, show (0x0FFF#16).toNat = 2 ^ 12 - 1 from rfl, Nat.and_two_pow_sub_one_eq_mod]

theorem mask12_lt (w : Word) : (mask12 w).toNat < 4096 := by
  rw [mask12_toNat]; omega

theorem mask12_of_lt {w : Word} (h : w.toNat < 4096) : mask12 w = w :=
  BitVec.eq_of_toNat_eq (by rw [mask12_toNat, Nat.mod_eq_of_lt h])

@[simp] theorem mask12_mask12 (w : Word) : mask12 (mask12 w) = mask12 w :=
  mask12_of_lt (mask12_lt w)

theorem mask12_eq_iff (a b : Word) : mask12 a = mask12 b ↔ a.toNat % 4096 = b.toNat % 4096 := by
  rw [← BitVec.toNat_inj, mask12_toNat, mask12_toNat]

/-- The memory reads only the low 12 bits of an address (R42). -/
@[simp] theorem State.memRead_mask12 (s : State) (a : Word) : s.memRead (mask12 a) = s.memRead a := by
  simp [State.memRead]

/-! ### Reset contents (R22, R26) -/

variable {font : Font}

theorem Memory.unlisted_font {a : Nat} (h : a < 80) : Memory.unlisted font a = font[a] := by
  simp [Memory.unlisted, h]

theorem Memory.unlisted_zero {a : Nat} (h : 80 ≤ a) : Memory.unlisted font a = 0#8 := by
  simp [Memory.unlisted, h]

/-! ### Lists of cells -/

theorem Memory.read_insert_same (a : Nat) (b : Byte) (m : List Host.Cell) (h : ∀ c ∈ m, c.1 ≠ a) :
    Memory.read font (Memory.insert (a, b) m) a = b := by
  induction m with
  | nil => simp [Memory.insert, Memory.read]
  | cons d ds ih =>
    by_cases hlt : a < d.1
    · simp [Memory.insert, Memory.read, hlt]
    · have hd : d.1 ≠ a := h d (by simp)
      simp [Memory.insert, Memory.read, hlt, hd, ih fun c hc => h c (by simp [hc])]

theorem Memory.read_insert_other {a a' : Nat} (b : Byte) (m : List Host.Cell) (h : a ≠ a') :
    Memory.read font (Memory.insert (a, b) m) a' = Memory.read font m a' := by
  induction m with
  | nil => simp [Memory.insert, Memory.read, h]
  | cons d ds ih =>
    unfold Memory.insert
    split
    · simp [Memory.read, h]
    · simp [Memory.read, ih]

theorem Memory.read_of_unlisted {a : Nat} {m : List Host.Cell} (h : ∀ c ∈ m, c.1 ≠ a) :
    Memory.read font m a = Memory.unlisted font a := by
  induction m with
  | nil => rfl
  | cons d ds ih =>
    have hd : d.1 ≠ a := h d (by simp)
    simp [Memory.read, hd, ih fun c hc => h c (by simp [hc])]

theorem Memory.erase_unlisted (m : List Host.Cell) (a : Nat) : ∀ c ∈ Memory.erase m a, c.1 ≠ a := by
  intro c hc
  simpa [Memory.erase] using (List.mem_filter.mp hc).2

theorem Memory.read_erase_other {a a' : Nat} (m : List Host.Cell) (h : a ≠ a') :
    Memory.read font (Memory.erase m a) a' = Memory.read font m a' := by
  induction m with
  | nil => rfl
  | cons d ds ih =>
    simp only [Memory.erase] at ih
    by_cases hd : d.1 = a
    · have : d.1 ≠ a' := fun e => h (hd ▸ e)
      simp [Memory.erase, Memory.read, hd, ih, h]
    · simp [Memory.erase, Memory.read, hd, ih]

/-- A read after a write to the same address gives the byte written. -/
@[simp] theorem Memory.read_write_same (m : List Host.Cell) (a : Nat) (b : Byte) :
    Memory.read font (Memory.write font m a b) a = b := by
  unfold Memory.write
  split
  · next h => rw [Memory.read_of_unlisted (Memory.erase_unlisted m a), h]
  · exact Memory.read_insert_same a b _ (Memory.erase_unlisted m a)

/-- A write leaves every other address alone. -/
theorem Memory.read_write_other {a a' : Nat} (m : List Host.Cell) (b : Byte) (h : a ≠ a') :
    Memory.read font (Memory.write font m a b) a' = Memory.read font m a' := by
  unfold Memory.write
  split
  · exact Memory.read_erase_other m h
  · rw [Memory.read_insert_other b _ h, Memory.read_erase_other m h]

theorem Memory.read_write (m : List Host.Cell) (a a' : Nat) (b : Byte) :
    Memory.read font (Memory.write font m a b) a' = if a = a' then b else Memory.read font m a' := by
  split
  · next h => subst h; exact Memory.read_write_same m a b
  · next h => exact Memory.read_write_other m b h

/-! ### The canonical form -/

theorem Memory.rising_erase {m : List Host.Cell} (h : Memory.rising m = true) (a : Nat) :
    Memory.rising (Memory.erase m a) = true := by
  induction m with
  | nil => rfl
  | cons d ds ih =>
    simp only [Memory.rising, Bool.and_eq_true, List.all_eq_true, decide_eq_true_eq] at h
    by_cases hd : d.1 = a
    · simpa [Memory.erase, hd] using ih h.2
    · have : Memory.erase (d :: ds) a = d :: Memory.erase ds a := by simp [Memory.erase, hd]
      rw [this]
      simp only [Memory.rising, Bool.and_eq_true, List.all_eq_true, decide_eq_true_eq]
      exact ⟨fun c hc => h.1 c (List.mem_of_mem_filter hc), ih h.2⟩

theorem Memory.mem_insert {c d : Host.Cell} {m : List Host.Cell} (h : d ∈ Memory.insert c m) : d = c ∨ d ∈ m := by
  induction m with
  | nil => simpa [Memory.insert] using h
  | cons e es ih =>
    unfold Memory.insert at h
    split at h
    · simpa using h
    · simp only [List.mem_cons] at h ⊢
      rcases h with h | h
      · exact .inr (.inl h)
      · exact (ih h).imp id .inr

theorem Memory.rising_insert {c : Host.Cell} {m : List Host.Cell} (h : Memory.rising m = true)
    (hc : ∀ d ∈ m, d.1 ≠ c.1) : Memory.rising (Memory.insert c m) = true := by
  induction m with
  | nil => rfl
  | cons d ds ih =>
    simp only [Memory.rising, Bool.and_eq_true, List.all_eq_true, decide_eq_true_eq] at h
    have hd : d.1 ≠ c.1 := hc d (by simp)
    unfold Memory.insert
    split
    · next hlt =>
      simp only [Memory.rising, Bool.and_eq_true, List.all_eq_true, decide_eq_true_eq, List.mem_cons]
      refine ⟨?_, h.1, h.2⟩
      rintro e (rfl | he)
      · exact hlt
      · exact hlt.trans (h.1 e he)
    · next hlt =>
      simp only [Memory.rising, Bool.and_eq_true, List.all_eq_true, decide_eq_true_eq]
      refine ⟨fun e he => ?_, ih h.2 fun e he => hc e (by simp [he])⟩
      rcases Memory.mem_insert he with rfl | he
      · omega
      · exact h.1 e he

/-- Every write to an address of the machine keeps the canonical form. -/
theorem Memory.wf_write {m : List Host.Cell} (h : Memory.wf font m = true) {a : Nat} (ha : a < 4096) (b : Byte) :
    Memory.wf font (Memory.write font m a b) = true := by
  simp only [Memory.wf, Bool.and_eq_true, List.all_eq_true] at h ⊢
  have herase : ∀ c ∈ Memory.erase m a, Memory.cellOk font c = true := fun c hc => h.2 c (List.mem_of_mem_filter hc)
  unfold Memory.write
  split
  · exact ⟨Memory.rising_erase h.1 a, herase⟩
  · next hb =>
    refine ⟨Memory.rising_insert (Memory.rising_erase h.1 a) (Memory.erase_unlisted m a), fun c hc => ?_⟩
    rcases Memory.mem_insert hc with rfl | hc
    · simp [Memory.cellOk, hb, ha]
    · exact herase c hc

/-- Memory at reset has the canonical form. -/
theorem Memory.wf_reset (depth draws : Nat) : Memory.wf font (State.resetWith font depth draws).mem = true := rfl

/-! ### The state's accesses -/

theorem State.memRead_memWrite (s : State) (a a' : Word) (b : Byte) :
    (s.memWrite a b).memRead a' = if mask12 a = mask12 a' then b else s.memRead a' := by
  simp [State.memRead, State.memWrite, Memory.read_write, ← BitVec.toNat_inj]

@[simp] theorem State.memRead_memWrite_same (s : State) (a : Word) (b : Byte) : (s.memWrite a b).memRead a = b := by
  simp [State.memRead_memWrite]

theorem State.memRead_memWrite_other (s : State) {a a' : Word} (b : Byte) (h : mask12 a ≠ mask12 a') :
    (s.memWrite a b).memRead a' = s.memRead a' := by
  simp [State.memRead_memWrite, h]

/-- A store keeps the canonical form of memory. -/
theorem State.wf_memWrite {s : State} (h : Memory.wf s.font s.mem = true) (a : Word) (b : Byte) :
    Memory.wf s.font (s.memWrite a b).mem = true :=
  Memory.wf_write h (mask12_lt a) b

/-- A read depends on the memory alone. -/
theorem State.memRead_congr {s t : State} (hf : t.font = s.font) (h : t.mem = s.mem) (a : Word) :
    t.memRead a = s.memRead a := by
  simp [State.memRead, hf, h]

end Sys2Proof.Machine
end

