-- ==== Sys2Proof/Laws/Registers.lean ====
section
/-! SUPPORT. Spec lemmas of the shared operations on registers, the call stack and the key flags: each says once
everything its operation can do. -/

namespace Sys2Proof.Machine

/-! ### V registers -/

theorem State.getV_setV (s : State) (r q : Nibble) (b : Byte) :
    (s.setV r b).getV q = if r = q then b else s.getV q := by
  simp only [State.getV, State.setV, Vector.getElem_set, ← BitVec.toNat_inj]

@[simp] theorem State.getV_setV_same (s : State) (r : Nibble) (b : Byte) : (s.setV r b).getV r = b := by
  simp [State.getV_setV]

theorem State.getV_setV_other (s : State) {r q : Nibble} (b : Byte) (h : r ≠ q) :
    (s.setV r b).getV q = s.getV q := by
  simp [State.getV_setV, h]

/-- A register read depends on the register file alone. -/
theorem State.getV_congr {s t : State} (h : t.v = s.v) (r : Nibble) : t.getV r = s.getV r := by
  simp [State.getV, h]

@[simp] theorem State.getV_memWrite (s : State) (a : Word) (b : Byte) (r : Nibble) :
    (s.memWrite a b).getV r = s.getV r := rfl

@[simp] theorem State.getV_setI (s : State) (w : Word) (r : Nibble) : (s.setI w).getV r = s.getV r := rfl

@[simp] theorem State.getV_setPc (s : State) (w : Word) (r : Nibble) : (s.setPc w).getV r = s.getV r := rfl

@[simp] theorem State.memRead_setV (s : State) (r : Nibble) (b : Byte) (a : Word) :
    (s.setV r b).memRead a = s.memRead a := rfl

@[simp] theorem State.memRead_setI (s : State) (w a : Word) : (s.setI w).memRead a = s.memRead a := rfl

@[simp] theorem State.memRead_setPc (s : State) (w a : Word) : (s.setPc w).memRead a = s.memRead a := rfl

@[simp] theorem State.getV_setDisplay (s : State) (fb : BitVec Config.fbCells) (r : Nibble) :
    (s.setDisplay fb).getV r = s.getV r := rfl

@[simp] theorem State.getV_setKey (s : State) (k : Nibble) (b : Bool) (r : Nibble) :
    (s.setKey k b).getV r = s.getV r := rfl

@[simp] theorem State.getV_clearKeys (s : State) (r : Nibble) : s.clearKeys.getV r = s.getV r := rfl

@[simp] theorem State.fbAt_setDisplay (s : State) (fb : BitVec Config.fbCells) (k : Nat) :
    (s.setDisplay fb).fbAt k = fb.getLsbD k := rfl

@[simp] theorem State.keyAt_setV (s : State) (r : Nibble) (b : Byte) (k : Nibble) :
    (s.setV r b).keyAt k = s.keyAt k := rfl

@[simp] theorem State.keyAt_setPc (s : State) (w : Word) (k : Nibble) : (s.setPc w).keyAt k = s.keyAt k := rfl

/-! ### Skips -/

/-- A conditional skip changes PC only: past the next word when the condition holds (R90), else not at all. -/
theorem State.skipIf_eq (s : State) (cond : Bool) :
    s.skipIf cond = { s with pc := if cond then mask12 (s.pc + 2#16) else s.pc } := by
  cases cond <;> rfl

/-! ### Call stack -/

/-- Everything a push can do (R14): fail on a full stack, or add one valid entry in place of a free one. -/
theorem State.push_cases (s : State) (w : Word) :
    (s.sp = s.stackDepth ∧ s.push w = .error .stackOverflow) ∨
    (s.sp < s.stackDepth ∧ ∃ e rest, s.stackFree = e :: rest ∧
      s.push w = .ok { s with stack := w :: s.stack, stackFree := rest }) := by
  cases h : s.stackFree with
  | nil => exact .inl ⟨by simp [State.sp, State.stackDepth, h], by simp [State.push, h]⟩
  | cons e rest => exact .inr ⟨by simp [State.sp, State.stackDepth, h], e, rest, rfl, by simp [State.push, h]⟩

/-- Everything a pop can do (R14): fail on an empty stack, or take the last pushed entry. -/
theorem State.pop_cases (s : State) :
    (s.sp = 0 ∧ s.pop = .error .stackUnderflow) ∨
    (∃ w rest, s.stack = w :: rest ∧
      s.pop = .ok (w, { s with stack := rest, stackFree := w :: s.stackFree })) := by
  cases h : s.stack with
  | nil => exact .inl ⟨by simp [State.sp, h], by simp [State.pop, h]⟩
  | cons w rest => exact .inr ⟨w, rest, rfl, by simp [State.pop, h]⟩

/-! ### Key flags -/

theorem State.keyAt_setKey (s : State) (k q : Nibble) (b : Bool) :
    (s.setKey k b).keyAt q = if k = q then b else s.keyAt q := by
  simp only [State.keyAt, State.setKey, Vector.getElem_set, ← BitVec.toNat_inj]

@[simp] theorem State.keyAt_clearKeys (s : State) (k : Nibble) : s.clearKeys.keyAt k = false := by
  simp [State.keyAt]

/-- Everything a key query can do (R166): a number above 15 and a flag of 0 change nothing, a flag of 1 is consumed. -/
theorem State.isKeyPressed_cases (s : State) (c : Byte) :
    (c.toNat > 15 ∧ s.isKeyPressed c = (false, s)) ∨
    (c.toNat ≤ 15 ∧ s.keyAt (c.setWidth 4) = false ∧ s.isKeyPressed c = (false, s)) ∨
    (c.toNat ≤ 15 ∧ s.keyAt (c.setWidth 4) = true ∧
      s.isKeyPressed c = (true, s.setKey (c.setWidth 4) false)) := by
  unfold State.isKeyPressed
  split
  · next h => exact .inl ⟨h, rfl⟩
  · next h =>
    split
    · next hk => exact .inr (.inr ⟨by omega, hk, rfl⟩)
    · next hk => exact .inr (.inl ⟨by omega, by simpa using hk, rfl⟩)

theorem mem_keyNumbers (k : Nibble) : k ∈ keyNumbers :=
  List.mem_map.mpr ⟨k.toNat, List.mem_range.mpr k.isLt, by simp⟩

/-- Everything the scan for a pressed key can do (R166): find none, or find and consume the lowest one. -/
theorem State.firstPressedKey_cases (s : State) :
    ((∀ k, s.keyAt k = false) ∧ s.firstPressedKey = none) ∨
    (∃ k, s.keyAt k = true ∧ (∀ q, q.toNat < k.toNat → s.keyAt q = false) ∧
      s.firstPressedKey = some (k, s.setKey k false)) := by
  cases h : keyNumbers.find? s.keyAt with
  | none =>
    refine .inl ⟨fun k => ?_, by simp [State.firstPressedKey, h]⟩
    simpa using List.find?_eq_none.mp h k (mem_keyNumbers k)
  | some k =>
    obtain ⟨hk, as, bs, hsplit, hlow⟩ := List.find?_eq_some_iff_append.mp h
    refine .inr ⟨k, hk, fun q hq => ?_, by simp [State.firstPressedKey, h]⟩
    have hsorted : keyNumbers.Pairwise (fun a b => a.toNat < b.toNat) := by decide
    have hq' := mem_keyNumbers q
    rw [hsplit] at hsorted hq'
    rcases List.mem_append.mp hq' with hq' | hq'
    · simpa using hlow q hq'
    · rcases List.mem_cons.mp hq' with rfl | hq'
      · exact absurd hq (lt_irrefl _)
      · have := List.rel_of_pairwise_cons (List.pairwise_append.mp hsorted).2.1 hq'
        omega

end Sys2Proof.Machine
end

