-- ==== Sys2Proof/Laws/Blocks.lean ====
section
/-! SUPPORT. Spec lemmas of the block operations: FX55's stores, FX65's loads, and Load's copy. -/

namespace Sys2Proof.Machine

/-- Data addresses of different offsets below 4096 never meet (R44: "impossible: at most 16 bytes in a 4096-byte
space"). -/
theorem mask12_add_ofNat_inj {w : Word} {j k : Nat} (hj : j < 4096) (hk : k < 4096)
    (h : mask12 (w + BitVec.ofNat 16 j) = mask12 (w + BitVec.ofNat 16 k)) : j = k := by
  rw [mask12_eq_iff] at h
  simp only [BitVec.toNat_add, BitVec.toNat_ofNat] at h
  omega

theorem State.dataAddr_inj {s : State} {j k : Nat} (hj : j < 4096) (hk : k < 4096)
    (h : mask12 (s.dataAddr j) = mask12 (s.dataAddr k)) : j = k :=
  mask12_add_ofNat_inj hj hk h

/-! ### FX55 -/

/-- Storing registers changes memory alone. -/
theorem State.storeRegs_eq (s : State) (n : Nat) : s.storeRegs n = { s with mem := (s.storeRegs n).mem } := by
  induction n with
  | zero => rfl
  | succ k ih => rw [State.storeRegs, ih]; rfl

@[simp] theorem State.storeRegs_font (s : State) (n : Nat) : (s.storeRegs n).font = s.font := by
  rw [State.storeRegs_eq]

theorem State.dataAddr_storeRegs (s : State) (n k : Nat) : (s.storeRegs n).dataAddr k = s.dataAddr k := by
  rw [State.storeRegs_eq]; rfl

/-- The byte stored for register number `k` (R144). -/
theorem State.memRead_storeRegs_stored (s : State) {n k : Nat} (hn : n ≤ 16) (hk : k < n) :
    (s.storeRegs n).memRead (s.dataAddr k) = s.getV (regNumber k) := by
  induction n with
  | zero => omega
  | succ m ih =>
    rw [State.storeRegs, State.memRead_memWrite]
    split
    · next h => rw [State.dataAddr_inj (by omega) (by omega) h]
    · next h => exact ih (by omega) (by rcases Nat.lt_succ_iff_lt_or_eq.mp hk with h' | rfl <;> [exact h'; exact absurd rfl h])

/-- Every other byte is as before (R144). -/
theorem State.memRead_storeRegs_other (s : State) (n : Nat) (a : Word)
    (h : ∀ k < n, mask12 (s.dataAddr k) ≠ mask12 a) : (s.storeRegs n).memRead a = s.memRead a := by
  induction n with
  | zero => rfl
  | succ m ih =>
    rw [State.storeRegs, State.memRead_memWrite_other _ _ (h m (by omega)), ih fun k hk => h k (by omega)]

/-- Storing registers keeps the canonical form of memory. -/
theorem State.wf_storeRegs {s : State} (h : Memory.wf s.font s.mem = true) (n : Nat) :
    Memory.wf s.font (s.storeRegs n).mem = true := by
  induction n with
  | zero => exact h
  | succ m ih =>
    rw [← State.storeRegs_font s m] at ih ⊢
    exact State.wf_memWrite ih _ _

/-! ### FX65 -/

/-- Loading registers changes the register file alone. -/
theorem State.loadRegs_eq (s : State) (n : Nat) : s.loadRegs n = { s with v := (s.loadRegs n).v } := by
  induction n with
  | zero => rfl
  | succ k ih => rw [State.loadRegs, ih]; rfl

/-- Which registers a load writes, and with what (R145). -/
theorem State.getV_loadRegs (s : State) {n : Nat} (hn : n ≤ 16) (r : Nibble) :
    (s.loadRegs n).getV r = if r.toNat < n then s.memRead (s.dataAddr r.toNat) else s.getV r := by
  induction n with
  | zero => rfl
  | succ m ih =>
    have hr : regNumber m = r ↔ r.toNat = m := by
      rw [regNumber, ← BitVec.toNat_inj, BitVec.toNat_ofNat]
      omega
    rw [State.loadRegs, State.getV_setV, ih (by omega)]
    by_cases h : r.toNat = m
    · simp [hr.mpr h, h]
    · have h' : regNumber m ≠ r := fun e => h (hr.mp e)
      have h'' : r.toNat < m + 1 ↔ r.toNat < m := by omega
      simp [h', h'']

/-! ### Load -/

/-- Load's copy changes memory alone. -/
theorem State.storeBytes_eq (s : State) (base : Word) (bs : List Byte) :
    s.storeBytes base bs = { s with mem := (s.storeBytes base bs).mem } := by
  induction bs generalizing s base with
  | nil => rfl
  | cons b bs ih => rw [State.storeBytes, ih]; rfl

/-- Load's copy keeps the canonical form of memory. -/
theorem State.wf_storeBytes {s : State} (h : Memory.wf s.font s.mem = true) (base : Word) (bs : List Byte) :
    Memory.wf s.font (s.storeBytes base bs).mem = true := by
  induction bs generalizing s base with
  | nil => exact h
  | cons b bs ih => exact ih (State.wf_memWrite h _ _) _

/-- Bytes outside the image are as before (R202). -/
theorem State.memRead_storeBytes_other (s : State) (base : Word) (bs : List Byte) (a : Word)
    (h : ∀ k < bs.length, mask12 (base + BitVec.ofNat 16 k) ≠ mask12 a) :
    (s.storeBytes base bs).memRead a = s.memRead a := by
  induction bs generalizing s base with
  | nil => rfl
  | cons b bs ih =>
    rw [State.storeBytes, ih]
    · exact State.memRead_memWrite_other _ _ (by simpa using h 0 (by simp))
    · intro k hk
      have := h (k + 1) (by simp; omega)
      rwa [BitVec.ofNat_add, BitVec.add_comm (BitVec.ofNat 16 k), ← BitVec.add_assoc] at this

/-- Byte `k` of the image (R202). -/
theorem State.memRead_storeBytes_stored (s : State) (base : Word) (bs : List Byte) {k : Nat}
    (hlen : bs.length ≤ 4096) (hk : k < bs.length) :
    (s.storeBytes base bs).memRead (base + BitVec.ofNat 16 k) = bs[k] := by
  induction bs generalizing s base k with
  | nil => simp at hk
  | cons b bs ih =>
    simp only [List.length_cons] at hlen hk
    rw [State.storeBytes]
    have hstep : ∀ j, base + 1#16 + BitVec.ofNat 16 j = base + BitVec.ofNat 16 (j + 1) := by
      intro j
      rw [BitVec.ofNat_add, BitVec.add_comm (BitVec.ofNat 16 j), ← BitVec.add_assoc]
    cases k with
    | zero =>
      rw [State.memRead_storeBytes_other]
      · simp
      · intro j hj h
        rw [hstep] at h
        have := mask12_add_ofNat_inj (by omega) (by omega) h
        omega
    | succ k =>
      rw [← hstep k, ih _ _ (by omega) (by omega)]
      simp

end Sys2Proof.Machine
end

