-- ==== Sys2Proof/Laws/Display.lean ====
section
/-! SUPPORT. Spec lemmas of the sprite blit: a DXYN toggles the cells of a list, each at most once (R151 corner case 7). -/

namespace Sys2Proof.Machine

theorem pixelCell_lt (x0 y0 col row : Nat) : pixelCell x0 y0 col row < 2048 := by
  simp only [pixelCell, Config.fbWidth, Config.fbHeight]
  omega

/-- Different sprite positions are different cells (R151: "8 < 64 columns, 15 < 32 rows"). -/
theorem pixelCell_inj {x0 y0 col row col' row' : Nat} (hc : col < 64) (hc' : col' < 64) (hr : row < 32) (hr' : row' < 32)
    (h : pixelCell x0 y0 col row = pixelCell x0 y0 col' row') : col = col' ∧ row = row' := by
  simp only [pixelCell, Config.fbWidth, Config.fbHeight] at h
  have hx : (x0 + col) % 64 < 64 := Nat.mod_lt _ (by omega)
  have hx' : (x0 + col') % 64 < 64 := Nat.mod_lt _ (by omega)
  omega

theorem Blit.toggle_fb (b : Blit) {k q : Nat} (hk : k < 2048) :
    (b.toggle k).fb.getLsbD q = (b.fb.getLsbD q ^^ decide (q = k)) := by
  simp only [Blit.toggle, BitVec.getLsbD_xor, BitVec.getLsbD_twoPow]
  congr 1
  simp [hk, eq_comm]

/-- Toggling a list of different cells, each once: each cell flips exactly when it is listed, and the collision flag
records a listed cell that held 1. -/
theorem Blit.foldl_toggle (cells : List Nat) (hcells : cells.Nodup) (hlt : ∀ k ∈ cells, k < 2048) (b : Blit) :
    (∀ q, (cells.foldl Blit.toggle b).fb.getLsbD q = (b.fb.getLsbD q ^^ decide (q ∈ cells))) ∧
    ((cells.foldl Blit.toggle b).coll = (b.coll || cells.any b.fb.getLsbD)) := by
  induction cells generalizing b with
  | nil => simp
  | cons k ks ih =>
    obtain ⟨hfb, hcoll⟩ := ih hcells.of_cons (fun q hq => hlt q (by simp [hq])) (b.toggle k)
    have hk : k < 2048 := hlt k (by simp)
    have hnot : k ∉ ks := (List.nodup_cons.mp hcells).1
    constructor
    · intro q
      rw [List.foldl_cons, hfb, Blit.toggle_fb b hk]
      by_cases hq : q = k
      · subst hq; simp [hnot]
      · simp [hq]
    · rw [List.foldl_cons, hcoll, List.any_cons]
      have hrest : ks.any (b.toggle k).fb.getLsbD = ks.any b.fb.getLsbD := by
        rw [Bool.eq_iff_iff, List.any_eq_true, List.any_eq_true]
        refine exists_congr fun q => and_congr_right fun hq => ?_
        have : q ≠ k := fun e => hnot (e ▸ hq)
        rw [Blit.toggle_fb b hk]
        simp [this]
      rw [hrest, ← Bool.or_assoc]
      rfl

/-- The cells one sprite row toggles, left to right. -/
def rowCells (byte : Byte) (x0 y0 row n : Nat) : List Nat :=
  ((List.range n).filter (fun col => byte.getLsbD (7 - col))).map (fun col => pixelCell x0 y0 col row)

theorem Blit.columns_eq (byte : Byte) (x0 y0 row n : Nat) (b : Blit) :
    Blit.columns byte x0 y0 row n b = (rowCells byte x0 y0 row n).foldl Blit.toggle b := by
  induction n with
  | zero => rfl
  | succ col ih =>
    rw [Blit.columns, ih, rowCells, rowCells, List.range_succ, List.filter_append, List.map_append, List.foldl_append]
    by_cases h : byte.getLsbD (7 - col) <;> simp [h]

/-- The cells a whole sprite toggles, row by row. -/
def spriteCells (sprite : Nat → Byte) (x0 y0 : Nat) : Nat → List Nat
  | 0 => []
  | row + 1 => spriteCells sprite x0 y0 row ++ rowCells (sprite row) x0 y0 row 8

/-- A blit is the toggling of its cells. -/
theorem Blit.rows_eq (sprite : Nat → Byte) (x0 y0 n : Nat) (b : Blit) :
    Blit.rows sprite x0 y0 n b = (spriteCells sprite x0 y0 n).foldl Blit.toggle b := by
  induction n with
  | zero => rfl
  | succ row ih => rw [Blit.rows, ih, Blit.columns_eq, spriteCells, List.foldl_append]

/-- A cell is toggled exactly when a set sprite bit lies on it (R151, R153). -/
theorem mem_spriteCells {sprite : Nat → Byte} {x0 y0 n k : Nat} :
    k ∈ spriteCells sprite x0 y0 n ↔
      ∃ row < n, ∃ col < 8, (sprite row).getLsbD (7 - col) = true ∧ pixelCell x0 y0 col row = k := by
  induction n with
  | zero => simp [spriteCells]
  | succ m ih =>
    simp only [spriteCells, List.mem_append, ih, rowCells, List.mem_map, List.mem_filter, List.mem_range]
    constructor
    · rintro (⟨row, hr, col, hc, h⟩ | ⟨col, ⟨hc, hb⟩, h⟩)
      · exact ⟨row, by omega, col, hc, h⟩
      · exact ⟨m, by omega, col, hc, hb, h⟩
    · rintro ⟨row, hr, col, hc, hb, h⟩
      rcases Nat.lt_succ_iff_lt_or_eq.mp hr with hr | rfl
      · exact .inl ⟨row, hr, col, hc, hb, h⟩
      · exact .inr ⟨col, ⟨hc, hb⟩, h⟩

theorem spriteCells_lt {sprite : Nat → Byte} {x0 y0 n k : Nat} (h : k ∈ spriteCells sprite x0 y0 n) : k < 2048 := by
  obtain ⟨row, _, col, _, _, rfl⟩ := mem_spriteCells.mp h
  exact pixelCell_lt ..

theorem rowCells_nodup (byte : Byte) (x0 y0 : Nat) {row : Nat} (hrow : row < 32) : (rowCells byte x0 y0 row 8).Nodup := by
  refine List.Nodup.map_on ?_ (List.nodup_range.filter _)
  intro a ha b hb h
  have ha := List.mem_range.mp (List.mem_of_mem_filter ha)
  have hb := List.mem_range.mp (List.mem_of_mem_filter hb)
  exact (pixelCell_inj (by omega) (by omega) hrow hrow h).1

/-- No cell is toggled twice (R151 corner case 7). -/
theorem spriteCells_nodup (sprite : Nat → Byte) (x0 y0 : Nat) {n : Nat} (hn : n ≤ 32) :
    (spriteCells sprite x0 y0 n).Nodup := by
  induction n with
  | zero => simp [spriteCells]
  | succ m ih =>
    refine List.Nodup.append (ih (by omega)) (rowCells_nodup _ x0 y0 (by omega)) ?_
    intro k hk hk'
    obtain ⟨row, hr, col, hc, _, rfl⟩ := mem_spriteCells.mp hk
    obtain ⟨col', hc', h⟩ := List.mem_map.mp hk'
    have := List.mem_range.mp (List.mem_of_mem_filter hc')
    have := (pixelCell_inj (by omega) (by omega) (by omega) (by omega) h).2
    omega

end Sys2Proof.Machine
end

