-- ==== Sys2Proof/Laws/Encoding.lean ====
section
/-! SUPPORT. The fields of each format of rule R62 read back what the format was built from. -/

namespace Sys2Proof

/-! ### Format NNN -/

@[simp] theorem fieldT_formatNNN (t : Nibble) (nnn : Addr) : fieldT (formatNNN t nnn) = t := by
  apply BitVec.eq_of_toNat_eq
  simp only [fieldT, formatNNN, BitVec.extractLsb'_toNat, BitVec.toNat_append]
  rw [Nat.shiftRight_eq_div_pow, ← Nat.shiftLeft_add_eq_or_of_lt nnn.isLt, Nat.shiftLeft_eq]
  have := t.isLt; have := nnn.isLt; omega

@[simp] theorem fieldNNN_formatNNN (t : Nibble) (nnn : Addr) : fieldNNN (formatNNN t nnn) = nnn := by
  apply BitVec.eq_of_toNat_eq
  simp only [fieldNNN, formatNNN, BitVec.extractLsb'_toNat, BitVec.toNat_append]
  rw [Nat.shiftRight_eq_div_pow, ← Nat.shiftLeft_add_eq_or_of_lt nnn.isLt, Nat.shiftLeft_eq]
  have := t.isLt; have := nnn.isLt; omega

/-! ### Formats XNN and XFF -/

theorem formatXNN_eq (t x : Nibble) (nn : Byte) : formatXNN t x nn = formatNNN t (x ++ nn) := rfl

theorem formatXFF_eq (t x : Nibble) (f : Byte) : formatXFF t x f = formatXNN t x f := rfl

theorem formatXYN_eq (t x y n : Nibble) : formatXYN t x y n = formatXNN t x (y ++ n) := rfl

theorem formatXNN_toNat (t x : Nibble) (nn : Byte) :
    (formatXNN t x nn).toNat = t.toNat * 4096 + x.toNat * 256 + nn.toNat := by
  simp only [formatXNN, BitVec.toNat_append]
  have h : x.toNat <<< 8 ||| nn.toNat < 2 ^ 12 := by
    rw [← Nat.shiftLeft_add_eq_or_of_lt nn.isLt, Nat.shiftLeft_eq]
    have := x.isLt; have := nn.isLt; omega
  rw [← Nat.shiftLeft_add_eq_or_of_lt h, ← Nat.shiftLeft_add_eq_or_of_lt nn.isLt, Nat.shiftLeft_eq, Nat.shiftLeft_eq]
  omega

@[simp] theorem fieldT_formatXNN (t x : Nibble) (nn : Byte) : fieldT (formatXNN t x nn) = t :=
  fieldT_formatNNN t _

@[simp] theorem fieldX_formatXNN (t x : Nibble) (nn : Byte) : fieldX (formatXNN t x nn) = x := by
  apply BitVec.eq_of_toNat_eq
  rw [fieldX, BitVec.extractLsb'_toNat, formatXNN_toNat, Nat.shiftRight_eq_div_pow]
  have := t.isLt; have := x.isLt; have := nn.isLt; omega

@[simp] theorem fieldNN_formatXNN (t x : Nibble) (nn : Byte) : fieldNN (formatXNN t x nn) = nn := by
  apply BitVec.eq_of_toNat_eq
  rw [fieldNN, BitVec.extractLsb'_toNat, formatXNN_toNat, Nat.shiftRight_eq_div_pow]
  have := t.isLt; have := x.isLt; have := nn.isLt; omega

@[simp] theorem fieldT_formatXFF (t x : Nibble) (f : Byte) : fieldT (formatXFF t x f) = t := fieldT_formatXNN t x f

@[simp] theorem fieldX_formatXFF (t x : Nibble) (f : Byte) : fieldX (formatXFF t x f) = x := fieldX_formatXNN t x f

@[simp] theorem fieldNN_formatXFF (t x : Nibble) (f : Byte) : fieldNN (formatXFF t x f) = f := fieldNN_formatXNN t x f

/-! ### Formats XYF and XYN -/

theorem formatXYN_toNat (t x y n : Nibble) :
    (formatXYN t x y n).toNat = t.toNat * 4096 + x.toNat * 256 + y.toNat * 16 + n.toNat := by
  rw [formatXYN_eq, formatXNN_toNat, BitVec.toNat_append, ← Nat.shiftLeft_add_eq_or_of_lt n.isLt, Nat.shiftLeft_eq]
  omega

@[simp] theorem fieldT_formatXYN (t x y n : Nibble) : fieldT (formatXYN t x y n) = t := fieldT_formatXNN t x _

@[simp] theorem fieldX_formatXYN (t x y n : Nibble) : fieldX (formatXYN t x y n) = x := fieldX_formatXNN t x _

@[simp] theorem fieldY_formatXYN (t x y n : Nibble) : fieldY (formatXYN t x y n) = y := by
  apply BitVec.eq_of_toNat_eq
  rw [fieldY, BitVec.extractLsb'_toNat, formatXYN_toNat, Nat.shiftRight_eq_div_pow]
  have := t.isLt; have := x.isLt; have := y.isLt; have := n.isLt; omega

@[simp] theorem fieldN_formatXYN (t x y n : Nibble) : fieldN (formatXYN t x y n) = n := by
  apply BitVec.eq_of_toNat_eq
  rw [fieldN, BitVec.extractLsb'_toNat, formatXYN_toNat, Nat.shiftRight_eq_div_pow]
  have := t.isLt; have := x.isLt; have := y.isLt; have := n.isLt; omega

/-! ### A word is the format of its own fields -/

theorem formatNNN_fields (op : Word) : formatNNN (fieldT op) (fieldNNN op) = op := by
  apply BitVec.eq_of_toNat_eq
  rw [formatNNN, BitVec.toNat_append, ← Nat.shiftLeft_add_eq_or_of_lt (fieldNNN op).isLt, Nat.shiftLeft_eq]
  simp only [fieldT, fieldNNN, BitVec.extractLsb'_toNat, Nat.shiftRight_eq_div_pow]
  have := op.isLt; omega

theorem formatXNN_fields (op : Word) : formatXNN (fieldT op) (fieldX op) (fieldNN op) = op := by
  apply BitVec.eq_of_toNat_eq
  rw [formatXNN_toNat]
  simp only [fieldT, fieldX, fieldNN, BitVec.extractLsb'_toNat, Nat.shiftRight_eq_div_pow]
  have := op.isLt; omega

theorem formatXYN_fields (op : Word) : formatXYN (fieldT op) (fieldX op) (fieldY op) (fieldN op) = op := by
  apply BitVec.eq_of_toNat_eq
  rw [formatXYN_toNat]
  simp only [fieldT, fieldX, fieldY, fieldN, BitVec.extractLsb'_toNat, Nat.shiftRight_eq_div_pow]
  have := op.isLt; omega

/-- The two bytes of a word give it back (R45). -/
@[simp] theorem wordOfBytes_bytesOfWord (op : Word) : wordOfBytes (op.extractLsb' 8 8) (op.extractLsb' 0 8) = op := by
  apply BitVec.eq_of_toNat_eq
  rw [wordOfBytes, BitVec.toNat_append, ← Nat.shiftLeft_add_eq_or_of_lt (op.extractLsb' 0 8).isLt, Nat.shiftLeft_eq]
  simp only [BitVec.extractLsb'_toNat, Nat.shiftRight_eq_div_pow]
  have := op.isLt; omega

end Sys2Proof
end

