-- ==== Sys2Proof/Laws/Step.lean ====
section
/-! SUPPORT. What a Step can do, said once: which of the phases run, and that phase 4 always goes on. -/

namespace Sys2Proof.Machine

/-! ### Phases 1 to 3 (R82 to R86) -/

/-- The state an instruction sees, field by field. -/
theorem State.prepare_eq (s : State) :
    s.prepare = { s with pc := mask12 (s.pc + 2#16), du := false, diagValid := false,
                         dt := countdown s.dt, st := countdown s.st } := rfl

@[simp] theorem State.prepare_v (s : State) : s.prepare.v = s.v := rfl
@[simp] theorem State.prepare_i (s : State) : s.prepare.i = s.i := rfl
@[simp] theorem State.prepare_pc (s : State) : s.prepare.pc = mask12 (s.pc + 2#16) := rfl
@[simp] theorem State.prepare_stack (s : State) : s.prepare.stack = s.stack := rfl
@[simp] theorem State.prepare_stackFree (s : State) : s.prepare.stackFree = s.stackFree := rfl
@[simp] theorem State.prepare_dt (s : State) : s.prepare.dt = countdown s.dt := rfl
@[simp] theorem State.prepare_st (s : State) : s.prepare.st = countdown s.st := rfl
@[simp] theorem State.prepare_font (s : State) : s.prepare.font = s.font := rfl
@[simp] theorem State.prepare_mem (s : State) : s.prepare.mem = s.mem := rfl
@[simp] theorem State.prepare_fb (s : State) : s.prepare.fb = s.fb := rfl
@[simp] theorem State.prepare_du (s : State) : s.prepare.du = false := rfl
@[simp] theorem State.prepare_key (s : State) : s.prepare.key = s.key := rfl
@[simp] theorem State.prepare_fault (s : State) : s.prepare.fault = s.fault := rfl
@[simp] theorem State.prepare_diagValid (s : State) : s.prepare.diagValid = false := rfl
@[simp] theorem State.prepare_diagOpcode (s : State) : s.prepare.diagOpcode = s.diagOpcode := rfl
@[simp] theorem State.prepare_draws (s : State) : s.prepare.draws = s.draws := rfl

@[simp] theorem State.getV_prepare (s : State) (r : Nibble) : s.prepare.getV r = s.getV r := rfl
@[simp] theorem State.keyAt_prepare (s : State) (k : Nibble) : s.prepare.keyAt k = s.keyAt k := rfl
@[simp] theorem State.memRead_prepare (s : State) (a : Word) : s.prepare.memRead a = s.memRead a := rfl

/-- PC past one word: modulo 4096 (R83, R90). -/
theorem mask12_add_two_toNat (w : Word) : (mask12 (w + 2#16)).toNat = (w.toNat + 2) % 4096 := by
  rw [mask12_toNat]
  simp

/-- A 12-bit operand survives the mask (R63). -/
theorem mask12_addrOperand_toNat (nnn : Addr) : (mask12 (addrOperand nnn)).toNat = nnn.toNat := by
  have := nnn.isLt
  rw [mask12_toNat, addrOperand]
  simp
  omega

/-- A countdown is a subtraction that stops at 0 (R85). -/
theorem countdown_toNat (t : Byte) : (countdown t).toNat = t.toNat - 1 := by
  unfold countdown
  have := t.isLt
  split
  · rw [BitVec.toNat_sub]; simp; omega
  · omega

/-! ### Phase 5 (R88, R178) -/

/-- Everything phase 5 can do: clear the key flags, or nothing after a fault. -/
theorem State.finish_cases (s : State) :
    (s.fault = .none ∧ s.finish = s.clearKeys) ∨ (s.fault ≠ .none ∧ s.finish = s) := by
  by_cases h : s.fault = .none
  · exact .inl ⟨h, if_pos h⟩
  · exact .inr ⟨h, if_neg h⟩

/-- After phase 5 without a fault no key is pressed (R88). -/
theorem State.finish_keyAt {s : State} (h : s.fault = .none) (k : Nibble) : s.finish.keyAt k = false := by
  simp [State.finish, h]

/-- Phase 5 changes the key flags alone. -/
theorem State.finish_eq (s : State) : s.finish = { s with key := s.finish.key } := by
  rcases s.finish_cases with ⟨_, h⟩ | ⟨_, h⟩ <;> rw [h] <;> rfl

/-! ### Phase 4 (R86) -/

/-- Everything 00EE can do (R100). -/
theorem execRet_cases (s : State) :
    (s.sp = 0 ∧ execRet s = .next (s.raise .stackUnderflow)) ∨
    (∃ w rest, s.stack = w :: rest ∧
      execRet s = .next { s with pc := mask12 w, stack := rest, stackFree := w :: s.stackFree }) := by
  rcases s.pop_cases with ⟨h, hp⟩ | ⟨w, rest, h, hp⟩
  · exact .inl ⟨h, by simp [execRet, hp]⟩
  · exact .inr ⟨w, rest, h, by simp [execRet, hp, State.setPc]⟩

/-- Everything 2NNN can do (R102). -/
theorem execCallNnn_cases (nnn : Addr) (s : State) :
    (s.sp = s.stackDepth ∧ execCallNnn nnn s = .next (s.raise .stackOverflow)) ∨
    (s.sp < s.stackDepth ∧ ∃ e rest, s.stackFree = e :: rest ∧
      execCallNnn nnn s = .next { s with pc := mask12 (addrOperand nnn), stack := s.pc :: s.stack, stackFree := rest }) := by
  rcases s.push_cases s.pc with ⟨h, hp⟩ | ⟨h, e, rest, hf, hp⟩
  · exact .inl ⟨h, by simp [execCallNnn, hp]⟩
  · exact .inr ⟨h, e, rest, hf, by simp [execCallNnn, hp, State.setPc]⟩

/-- Everything FX0A can do (R162). -/
theorem execLdVxK_cases (x : Nibble) (s : State) :
    ((∀ k, s.keyAt k = false) ∧ execLdVxK x s = .next (s.setPc (s.pc - 2#16))) ∨
    (∃ k, s.keyAt k = true ∧ (∀ q, q.toNat < k.toNat → s.keyAt q = false) ∧
      execLdVxK x s = .next ((s.setKey k false).setV x (k.setWidth 8))) := by
  rcases s.firstPressedKey_cases with ⟨h, hf⟩ | ⟨k, h, hl, hf⟩
  · exact .inl ⟨h, by simp [execLdVxK, hf]⟩
  · exact .inr ⟨k, h, hl, by simp [execLdVxK, hf]⟩

/-- Phase 4 always answers a next state (R91). -/
theorem exec_next (i : Instr) (s : State) : ∃ t, exec i s = .next t := by
  cases i with
  | ret =>
    rcases execRet_cases s with ⟨_, h⟩ | ⟨_, _, _, h⟩
    · exact ⟨_, h⟩
    · exact ⟨_, h⟩
  | callNnn nnn =>
    rcases execCallNnn_cases nnn s with ⟨_, h⟩ | ⟨_, _, _, _, h⟩
    · exact ⟨_, h⟩
    · exact ⟨_, h⟩
  | ldVxK x =>
    rcases execLdVxK_cases x s with ⟨_, h⟩ | ⟨_, _, _, h⟩
    · exact ⟨_, h⟩
    · exact ⟨_, h⟩
  | _ => exact ⟨_, rfl⟩

/-! ### The Step (R91) -/

/-- Everything a Step can do: nothing while halted (R89); report an unrecognised word (R87); or run the decoded
instruction on the prepared state, phase 5 after it. -/
theorem step_cases (s : State) :
    (s.fault ≠ .none ∧ step s = .next s) ∨
    (s.fault = .none ∧ ∃ op, decode s.fetch = .unrecognised op ∧
      step s = .next (s.prepare.reportUnrecognised op).clearKeys) ∨
    (s.fault = .none ∧ ∃ i t, decode s.fetch = .instr i ∧ exec i s.prepare = .next t ∧
      step s = .next t.finish) := by
  by_cases hf : s.fault = .none
  · cases hd : decode s.fetch with
    | unrecognised op =>
      refine .inr (.inl ⟨hf, op, rfl, ?_⟩)
      simp [step, State.runStep, State.complete, State.finish, hf, hd]
    | instr i =>
      obtain ⟨t, ht⟩ := exec_next i s.prepare
      refine .inr (.inr ⟨hf, i, t, rfl, ht, ?_⟩)
      simp [step, State.runStep, State.complete, hf, hd, ht]
  · exact .inl ⟨hf, by simp [step, State.runStep, hf]⟩

/-- A Step on a decoded word, from what phase 4 answers (R86, R88). -/
theorem step_instr {s t : State} {i : Instr} (hf : s.fault = .none) (hd : decode s.fetch = .instr i)
    (he : exec i s.prepare = .next t) : step s = .next t.finish := by
  simp [step, State.runStep, State.complete, hf, hd, he]

/-- A Step on an unrecognised word (R87, R88). -/
theorem step_unrecognised {s : State} {op : Word} (hf : s.fault = .none) (hd : decode s.fetch = .unrecognised op) :
    step s = .next (s.prepare.reportUnrecognised op).clearKeys := by
  simp [step, State.runStep, State.complete, State.finish, hf, hd]

/-- A Step always answers a next state (R91). -/
theorem step_next (s : State) : ∃ t, step s = .next t := by
  rcases step_cases s with ⟨_, h⟩ | ⟨_, _, _, h⟩ | ⟨_, _, _, _, _, h⟩ <;> exact ⟨_, h⟩

/-- A run begins with one Step. -/
theorem core_run_next {s t : State} (h : step s = .next t) (n : Nat) : core.run (n + 1) s = core.run n t := by
  have h' : core.step s = .next t := h
  simp only [Host.Core.run, h']

/-- The word of an unrecognised decoding is the word fetched (R74). -/
theorem decode_unrecognised {op w : Word} (h : decode op = .unrecognised w) : w = op := by
  revert h
  unfold decode
  split
  case h_1 => unfold decodeFamily0; split <;> [simp; (split <;> simp [eq_comm])]
  case h_6 => unfold decodeFamily5; split <;> simp [eq_comm]
  case h_9 => unfold decodeFamily8; split <;> simp [eq_comm]
  case h_10 => unfold decodeFamily9; split <;> simp [eq_comm]
  case h_15 => unfold decodeFamilyE; split <;> [simp; (split <;> simp [eq_comm])]
  case h_16 =>
    unfold decodeFamilyF
    repeat' split
    all_goals simp [eq_comm]
  all_goals simp

/-- The fetched word is the one placed (R45, R82). -/
theorem State.fetch_placeWord (s : State) (op : Word) : (s.placeWord op).fetch = op := by
  have hne : mask12 (s.pc + 1#16) ≠ mask12 s.pc := by
    intro h
    rw [mask12_eq_iff] at h
    simp only [BitVec.toNat_add, BitVec.toNat_ofNat] at h
    omega
  simp only [State.fetch, State.placeWord, State.memWrite_pc, State.memRead_memWrite_same,
    State.memRead_memWrite_other _ _ hne, wordOfBytes_bytesOfWord]

/-- Placing a word changes memory alone. -/
theorem State.placeWord_eq (s : State) (op : Word) : s.placeWord op = { s with mem := (s.placeWord op).mem } := rfl

end Sys2Proof.Machine
end

