-- ==== Sys2Proof/Laws/Frame.lean ====
section
/-! SUPPORT. Frames: how they compose, and the frame of each shared operation. -/

namespace Sys2Proof.Machine

variable {d d' : List Nibble} {p p' : List Part} {s t u : State}

theorem Frame.refl (d : List Nibble) (p : List Part) (s : State) : Frame d p s s where
  regs _ _ := rfl
  i _ := rfl
  pc _ := rfl
  mem _ _ := rfl
  stack _ := ⟨rfl, rfl⟩
  dt _ := rfl
  st _ := rfl
  fb _ := rfl
  du _ := rfl
  keys _ _ := rfl
  fault _ := rfl
  diag _ := ⟨rfl, rfl⟩
  draws _ := rfl
  font := rfl

theorem Frame.trans (h : Frame d p s t) (h' : Frame d p t u) : Frame d p s u where
  regs r hr := (h'.regs r hr).trans (h.regs r hr)
  i hp := (h'.i hp).trans (h.i hp)
  pc hp := (h'.pc hp).trans (h.pc hp)
  mem hp a := (h'.mem hp a).trans (h.mem hp a)
  stack hp := ⟨(h'.stack hp).1.trans (h.stack hp).1, (h'.stack hp).2.trans (h.stack hp).2⟩
  dt hp := (h'.dt hp).trans (h.dt hp)
  st hp := (h'.st hp).trans (h.st hp)
  fb hp := (h'.fb hp).trans (h.fb hp)
  du hp := (h'.du hp).trans (h.du hp)
  keys hp k := (h'.keys hp k).trans (h.keys hp k)
  fault hp := (h'.fault hp).trans (h.fault hp)
  diag hp := ⟨(h'.diag hp).1.trans (h.diag hp).1, (h'.diag hp).2.trans (h.diag hp).2⟩
  draws hp := (h'.draws hp).trans (h.draws hp)
  font := h'.font.trans h.font

/-- What may change may be said more generously. -/
theorem Frame.mono (hd : d ⊆ d') (hp : p ⊆ p') (h : Frame d p s t) : Frame d' p' s t where
  regs r hr := h.regs r fun hm => hr (hd hm)
  i hn := h.i fun hm => hn (hp hm)
  pc hn := h.pc fun hm => hn (hp hm)
  mem hn := h.mem fun hm => hn (hp hm)
  stack hn := h.stack fun hm => hn (hp hm)
  dt hn := h.dt fun hm => hn (hp hm)
  st hn := h.st fun hm => hn (hp hm)
  fb hn := h.fb fun hm => hn (hp hm)
  du hn := h.du fun hm => hn (hp hm)
  keys hn := h.keys fun hm => hn (hp hm)
  fault hn := h.fault fun hm => hn (hp hm)
  diag hn := h.diag fun hm => hn (hp hm)
  draws hn := h.draws fun hm => hn (hp hm)
  font := h.font

/-! ### The shared operations -/

theorem frame_setV (s : State) (r : Nibble) (b : Byte) : Frame [r] [] s (s.setV r b) :=
  { Frame.refl [r] [] s with
    regs := fun q hq => State.getV_setV_other s b (by simpa [eq_comm] using hq) }

theorem frame_setI (s : State) (w : Word) : Frame [] [.i] s (s.setI w) :=
  { Frame.refl [] [.i] s with i := fun h => absurd (by simp) h }

theorem frame_setPc (s : State) (w : Word) : Frame [] [.pc] s (s.setPc w) :=
  { Frame.refl [] [.pc] s with pc := fun h => absurd (by simp) h }

theorem frame_setDt (s : State) (b : Byte) : Frame [] [.dt] s (s.setDt b) :=
  { Frame.refl [] [.dt] s with dt := fun h => absurd (by simp) h }

theorem frame_setSt (s : State) (b : Byte) : Frame [] [.st] s (s.setSt b) :=
  { Frame.refl [] [.st] s with st := fun h => absurd (by simp) h }

theorem frame_mem (s : State) (m : List Host.Cell) : Frame [] [.mem] s { s with mem := m } :=
  { Frame.refl [] [.mem] s with mem := fun h => absurd (by simp) h }

theorem frame_setDisplay (s : State) (fb : BitVec Config.fbCells) : Frame [] [.fb, .du] s (s.setDisplay fb) :=
  { Frame.refl [] [.fb, .du] s with fb := fun h => absurd (by simp) h, du := fun h => absurd (by simp) h }

theorem frame_setKey (s : State) (k : Nibble) (b : Bool) : Frame [] [.keys] s (s.setKey k b) :=
  { Frame.refl [] [.keys] s with keys := fun h => absurd (by simp) h }

theorem frame_clearKeys (s : State) : Frame [] [.keys] s s.clearKeys :=
  { Frame.refl [] [.keys] s with keys := fun h => absurd (by simp) h }

theorem frame_raise (s : State) (f : FaultStatus) : Frame [] [.fault] s (s.raise f) :=
  { Frame.refl [] [.fault] s with fault := fun h => absurd (by simp) h }

theorem frame_draws (s : State) (n : Nat) : Frame [] [.draws] s { s with draws := n } :=
  { Frame.refl [] [.draws] s with draws := fun h => absurd (by simp) h }

theorem frame_pcStack (s : State) (w : Word) (l l' : List Word) :
    Frame [] [.pc, .stack] s { s with pc := w, stack := l, stackFree := l' } :=
  { Frame.refl [] [.pc, .stack] s with pc := fun h => absurd (by simp) h, stack := fun h => absurd (by simp) h }

theorem frame_skipIf (s : State) (c : Bool) : Frame [] [.pc] s (s.skipIf c) := by
  rw [State.skipIf_eq]
  exact { Frame.refl [] [.pc] s with pc := fun h => absurd (by simp) h }

theorem frame_storeRegs (s : State) (n : Nat) : Frame [] [.mem] s (s.storeRegs n) := by
  rw [State.storeRegs_eq]
  exact frame_mem s _

theorem frame_storeBytes (s : State) (base : Word) (bs : List Byte) : Frame [] [.mem] s (s.storeBytes base bs) := by
  rw [State.storeBytes_eq]
  exact frame_mem s _

theorem frame_v (s : State) (v : Vector Byte 16) (h : ∀ r, r ∉ d → { s with v := v }.getV r = s.getV r) :
    Frame d [] s { s with v := v } :=
  { Frame.refl d [] s with regs := h }

/-! ### The phases of a Step -/

/-- Phases 1 to 3 (R82 to R85). -/
theorem frame_prepare (s : State) : Frame [] [.pc, .dt, .st, .du, .diag] s s.prepare :=
  { Frame.refl [] [.pc, .dt, .st, .du, .diag] s with
    pc := fun h => absurd (by simp) h
    dt := fun h => absurd (by simp) h
    st := fun h => absurd (by simp) h
    du := fun h => absurd (by simp) h
    diag := fun h => absurd (by simp) h }

/-- The report of an unrecognised word (R87). -/
theorem frame_reportUnrecognised (s : State) (op : Word) : Frame [] [.diag] s (s.reportUnrecognised op) :=
  { Frame.refl [] [.diag] s with diag := fun h => absurd (by simp) h }

/-- Phase 5 (R88). -/
theorem frame_finish (s : State) : Frame [] [.keys] s s.finish := by
  rw [State.finish_eq]
  exact { Frame.refl [] [.keys] s with keys := fun h => absurd (by simp) h }

/-! ### FX65 -/

/-- FX65 writes the registers below its count (R145). -/
theorem frame_loadRegs (s : State) {n : Nat} (hn : n ≤ 16) :
    Frame ((List.range n).map (BitVec.ofNat 4)) [] s (s.loadRegs n) := by
  have hregs : ∀ r, r ∉ (List.range n).map (BitVec.ofNat 4) → (s.loadRegs n).getV r = s.getV r := by
    intro r hr
    rw [State.getV_loadRegs s hn, if_neg]
    exact fun h => hr (List.mem_map.mpr ⟨r.toNat, List.mem_range.mpr h, by simp⟩)
  rw [State.loadRegs_eq]
  exact frame_v s _ hregs

end Sys2Proof.Machine
end

