-- ==== Sys2Proof/Laws/PerInstr.lean ====
section
/-! SUPPORT. Per-instruction statements, one lemma per constructor. EncodingMatchesRow: the word an instruction encodes to
has the fixed bits of its row of R70. -/

namespace Sys2Proof.Laws.EncodingMatchesRow

/-- "a word `op` is the instruction of a row exactly when `op & mask == match`" (R70), for the row of the instruction. -/
def Statement (i : Instr) : Prop := i.row.matches (encode i) = true

theorem matches_of {p : String} {op mask bits bits' : Word} (h : op &&& mask = bits) (hb : bits = bits' := by rfl) :
    (OpcodeRow.mk p mask bits').matches op = true := by
  simp [OpcodeRow.matches, h, hb]

/-- Mask 0xF000 keeps the top nibble. -/
theorem top_nibble_NNN (t : Nibble) (nnn : Addr) : formatNNN t nnn &&& 0xF000#16 = t ++ 0#12 := by
  apply BitVec.eq_of_getLsbD_eq
  intro k hk
  simp only [formatNNN, BitVec.getLsbD_and, BitVec.getLsbD_append]
  interval_cases k <;> simp

theorem top_nibble_XNN (t x : Nibble) (nn : Byte) : formatXNN t x nn &&& 0xF000#16 = t ++ 0#12 :=
  top_nibble_NNN t _

theorem top_nibble_XYN (t x y n : Nibble) : formatXYN t x y n &&& 0xF000#16 = t ++ 0#12 :=
  top_nibble_NNN t _

/-- Mask 0xF0FF keeps the top nibble and the function byte. -/
theorem function_byte (t x : Nibble) (f : Byte) : formatXFF t x f &&& 0xF0FF#16 = t ++ (0#4 ++ f : BitVec 12) := by
  apply BitVec.eq_of_getLsbD_eq
  intro k hk
  simp only [formatXFF, BitVec.getLsbD_and, BitVec.getLsbD_append]
  interval_cases k <;> simp

/-- Mask 0xF00F keeps the top nibble and the function nibble. -/
theorem function_nibble (t x y n : Nibble) : formatXYN t x y n &&& 0xF00F#16 = t ++ (0#8 ++ n : BitVec 12) := by
  apply BitVec.eq_of_getLsbD_eq
  intro k hk
  simp only [formatXYN, BitVec.getLsbD_and, BitVec.getLsbD_append]
  interval_cases k <;> simp

theorem cls : Statement .cls := rfl

theorem ret : Statement .ret := rfl

theorem jpNnn (nnn : Addr) : Statement (.jpNnn nnn) :=
  matches_of (top_nibble_NNN _ nnn)

theorem callNnn (nnn : Addr) : Statement (.callNnn nnn) :=
  matches_of (top_nibble_NNN _ nnn)

theorem seVxNn (x : Nibble) (nn : Byte) : Statement (.seVxNn x nn) :=
  matches_of (top_nibble_XNN _ x nn)

theorem sneVxNn (x : Nibble) (nn : Byte) : Statement (.sneVxNn x nn) :=
  matches_of (top_nibble_XNN _ x nn)

theorem seVxVy (x : Nibble) (y : Nibble) : Statement (.seVxVy x y) :=
  matches_of (function_nibble _ x y _)

theorem ldVxNn (x : Nibble) (nn : Byte) : Statement (.ldVxNn x nn) :=
  matches_of (top_nibble_XNN _ x nn)

theorem addVxNn (x : Nibble) (nn : Byte) : Statement (.addVxNn x nn) :=
  matches_of (top_nibble_XNN _ x nn)

theorem ldVxVy (x : Nibble) (y : Nibble) : Statement (.ldVxVy x y) :=
  matches_of (function_nibble _ x y _)

theorem orVxVy (x : Nibble) (y : Nibble) : Statement (.orVxVy x y) :=
  matches_of (function_nibble _ x y _)

theorem andVxVy (x : Nibble) (y : Nibble) : Statement (.andVxVy x y) :=
  matches_of (function_nibble _ x y _)

theorem xorVxVy (x : Nibble) (y : Nibble) : Statement (.xorVxVy x y) :=
  matches_of (function_nibble _ x y _)

theorem addVxVy (x : Nibble) (y : Nibble) : Statement (.addVxVy x y) :=
  matches_of (function_nibble _ x y _)

theorem subVxVy (x : Nibble) (y : Nibble) : Statement (.subVxVy x y) :=
  matches_of (function_nibble _ x y _)

theorem shrVxVy (x : Nibble) (y : Nibble) : Statement (.shrVxVy x y) :=
  matches_of (function_nibble _ x y _)

theorem subnVxVy (x : Nibble) (y : Nibble) : Statement (.subnVxVy x y) :=
  matches_of (function_nibble _ x y _)

theorem shlVxVy (x : Nibble) (y : Nibble) : Statement (.shlVxVy x y) :=
  matches_of (function_nibble _ x y _)

theorem sneVxVy (x : Nibble) (y : Nibble) : Statement (.sneVxVy x y) :=
  matches_of (function_nibble _ x y _)

theorem ldINnn (nnn : Addr) : Statement (.ldINnn nnn) :=
  matches_of (top_nibble_NNN _ nnn)

theorem jpV0Nnn (nnn : Addr) : Statement (.jpV0Nnn nnn) :=
  matches_of (top_nibble_NNN _ nnn)

theorem rndVxNn (x : Nibble) (nn : Byte) : Statement (.rndVxNn x nn) :=
  matches_of (top_nibble_XNN _ x nn)

theorem drwVxVyN (x : Nibble) (y : Nibble) (n : Nibble) : Statement (.drwVxVyN x y n) :=
  matches_of (top_nibble_XYN _ x y n)

theorem skpVx (x : Nibble) : Statement (.skpVx x) :=
  matches_of (function_byte _ x _)

theorem sknpVx (x : Nibble) : Statement (.sknpVx x) :=
  matches_of (function_byte _ x _)

theorem ldVxDt (x : Nibble) : Statement (.ldVxDt x) :=
  matches_of (function_byte _ x _)

theorem ldVxK (x : Nibble) : Statement (.ldVxK x) :=
  matches_of (function_byte _ x _)

theorem ldDtVx (x : Nibble) : Statement (.ldDtVx x) :=
  matches_of (function_byte _ x _)

theorem ldStVx (x : Nibble) : Statement (.ldStVx x) :=
  matches_of (function_byte _ x _)

theorem addIVx (x : Nibble) : Statement (.addIVx x) :=
  matches_of (function_byte _ x _)

theorem ldFVx (x : Nibble) : Statement (.ldFVx x) :=
  matches_of (function_byte _ x _)

theorem ldBVx (x : Nibble) : Statement (.ldBVx x) :=
  matches_of (function_byte _ x _)

theorem ldMemVx (x : Nibble) : Statement (.ldMemVx x) :=
  matches_of (function_byte _ x _)

theorem ldVxMem (x : Nibble) : Statement (.ldVxMem x) :=
  matches_of (function_byte _ x _)

end Sys2Proof.Laws.EncodingMatchesRow
end

