-- ==== Sys2Proof/Tests/Slice0.lean ====
section
/-! SUPPORT. The author's own tests: decoding of words written out from `30_encoding.md`, the refusals of the well-formedness
check, one-step vectors of `95_test_vectors.md` (each named in a comment), and a witness for the hypotheses of every
statement. Expected values come from the spec. -/

namespace Sys2Proof.Machine.Tests

set_option maxRecDepth 10000

/-! ### Helpers -/

/-- The reset state with words placed from 0x200 on. -/
def program (ops : List Word) : State := State.reset.storeBytes 512#16 (ops.flatMap bytesOfWord)

/-- Registers set. -/
def withV (s : State) (vs : List (Nibble × Byte)) : State := vs.foldl (fun u p => u.setV p.1 p.2) s

/-- Bytes set from an address on. -/
def withMem (s : State) (a : Word) (bs : List Byte) : State := s.storeBytes a bs

/-- Key flags set. -/
def withKeys (s : State) (ks : List Nibble) : State := ks.foldl (fun u k => u.setKey k true) s

/-- The framebuffer with exactly these cells lit. -/
def lit (cells : List Nat) : BitVec 2048 := cells.foldl (fun b k => b ||| BitVec.twoPow 2048 k) 0#2048

/-- The state after one Step. -/
def go (s : State) : State := match step s with | .next t => t | .fault _ => s | .refused _ => s

/-- The state after phase 4 of one instruction. -/
def after (i : Instr) (s : State) : State := match exec i s with | .next t => t | .fault _ => s | .refused _ => s

theorem step_go (s : State) : step s = .next (go s) := by
  obtain ⟨t, h⟩ := step_next s
  simp [go, h]

theorem exec_after (i : Instr) (s : State) : exec i s = .next (after i s) := by
  obtain ⟨t, h⟩ := exec_next i s
  simp [after, h]

/-! ### Decoding: every row of R70, a word written out from its pattern -/

theorem test_decode_family0 : decode 0x00E0#16 = .instr .cls ∧ decode 0x00EE#16 = .instr .ret := by decide

theorem test_decode_jumps :
    decode 0x1ABC#16 = .instr (.jpNnn 0xABC#12) ∧ decode 0x2FED#16 = .instr (.callNnn 0xFED#12) ∧
    decode 0xBABC#16 = .instr (.jpV0Nnn 0xABC#12) := by decide

theorem test_decode_skips :
    decode 0x3A12#16 = .instr (.seVxNn 0xA#4 0x12#8) ∧ decode 0x4B34#16 = .instr (.sneVxNn 0xB#4 0x34#8) ∧
    decode 0x5AB0#16 = .instr (.seVxVy 0xA#4 0xB#4) ∧ decode 0x9CD0#16 = .instr (.sneVxVy 0xC#4 0xD#4) := by decide

theorem test_decode_immediates :
    decode 0x6A11#16 = .instr (.ldVxNn 0xA#4 0x11#8) ∧ decode 0x7B22#16 = .instr (.addVxNn 0xB#4 0x22#8) ∧
    decode 0xC30F#16 = .instr (.rndVxNn 3#4 0x0F#8) := by decide

theorem test_decode_family8 :
    decode 0x8AB0#16 = .instr (.ldVxVy 0xA#4 0xB#4) ∧ decode 0x8AB1#16 = .instr (.orVxVy 0xA#4 0xB#4) ∧
    decode 0x8AB2#16 = .instr (.andVxVy 0xA#4 0xB#4) ∧ decode 0x8AB3#16 = .instr (.xorVxVy 0xA#4 0xB#4) ∧
    decode 0x8AB4#16 = .instr (.addVxVy 0xA#4 0xB#4) ∧ decode 0x8AB5#16 = .instr (.subVxVy 0xA#4 0xB#4) ∧
    decode 0x8AB6#16 = .instr (.shrVxVy 0xA#4 0xB#4) ∧ decode 0x8AB7#16 = .instr (.subnVxVy 0xA#4 0xB#4) ∧
    decode 0x8ABE#16 = .instr (.shlVxVy 0xA#4 0xB#4) := by decide

theorem test_decode_index_and_draw :
    decode 0xA123#16 = .instr (.ldINnn 0x123#12) ∧ decode 0xDEF5#16 = .instr (.drwVxVyN 0xE#4 0xF#4 5#4) := by decide

theorem test_decode_familyE :
    decode 0xEF9E#16 = .instr (.skpVx 0xF#4) ∧ decode 0xE1A1#16 = .instr (.sknpVx 1#4) := by decide

theorem test_decode_familyF :
    decode 0xF207#16 = .instr (.ldVxDt 2#4) ∧ decode 0xF10A#16 = .instr (.ldVxK 1#4) ∧
    decode 0xF015#16 = .instr (.ldDtVx 0#4) ∧ decode 0xF318#16 = .instr (.ldStVx 3#4) ∧
    decode 0xF41E#16 = .instr (.addIVx 4#4) ∧ decode 0xF529#16 = .instr (.ldFVx 5#4) ∧
    decode 0xF633#16 = .instr (.ldBVx 6#4) ∧ decode 0xF755#16 = .instr (.ldMemVx 7#4) ∧
    decode 0xF965#16 = .instr (.ldVxMem 9#4) := by decide

/-- The high byte comes first (R45), and the rest of the bytes is handed back. -/
theorem test_decode_bytes : decodeBytes [0x61#8, 0x32#8, 0xFF#8] = .ok (.ldVxNn 1#4 0x32#8, [0xFF#8]) := by decide

theorem test_decode_table_word : decodeTableWord 16 0xDEF5 = some (.drwVxVyN 0xE#4 0xF#4 5#4) := by decide

theorem test_with_fetch_word : (go (State.reset.withFetchWord 16 0x6132)).getV 1#4 = 0x32#8 := by decide

/-! ### Well-formedness: one ill-formed word per group of R71, refused by the check and by the decoder -/

theorem test_illformed_family0 :
    recognised 0x0123#16 = false ∧ recognised 0x01E0#16 = false ∧ recognised 0x01EE#16 = false ∧
    decode 0x01E0#16 = .unrecognised 0x01E0#16 := by decide

theorem test_illformed_family5 : recognised 0x5121#16 = false ∧ decode 0x5121#16 = .unrecognised 0x5121#16 := by decide

theorem test_illformed_family8 :
    recognised 0x8008#16 = false ∧ recognised 0x8ABD#16 = false ∧ recognised 0x800F#16 = false ∧
    decode 0x800F#16 = .unrecognised 0x800F#16 := by decide

theorem test_illformed_family9 : recognised 0x9121#16 = false ∧ decode 0x9121#16 = .unrecognised 0x9121#16 := by decide

theorem test_illformed_familyE :
    recognised 0xE09F#16 = false ∧ recognised 0xE000#16 = false ∧ decode 0xE09F#16 = .unrecognised 0xE09F#16 := by decide

theorem test_illformed_familyF :
    recognised 0xF0FF#16 = false ∧ recognised 0xF11F#16 = false ∧ decode 0xF000#16 = .unrecognised 0xF000#16 := by decide

theorem test_illformed_bytes :
    decodeBytes [0xF0#8, 0xFF#8, 0x00#8] = .error (.unrecognised 0xF0FF#16) ∧
    decodeBytes [0x61#8] = .error .tooShort ∧ decodeBytes [] = .error .tooShort ∧
    decodeTableWord 16 0x5121 = none := by decide

/-- A row check reads its mask and its bits. -/
theorem test_recognised_words :
    recognised 0x00E0#16 = true ∧ recognised 0x5120#16 = true ∧ recognised 0x812E#16 = true ∧
    (Instr.row (.skpVx 0#4)).matches 0xE59E#16 = true ∧ (Instr.row (.skpVx 0#4)).matches 0xE5A1#16 = false := by decide

/-! ### One-step vectors: the Step frame (2.1) -/

/-- S1. -/
theorem test_step_wraps_pc :
    let t := go (withMem { program [] with pc := 0xFFE#16 } 0xFFE#16 [0x6A#8, 0x11#8])
    t.getV 0xA#4 = 0x11#8 ∧ t.pc = 0#16 := by decide

/-- S2: the second byte comes from address 0. -/
theorem test_step_fetch_wraps :
    let t := go (withMem { program [] with pc := 0xFFF#16 } 0xFFF#16 [0x6A#8])
    t.getV 0xA#4 = 0xF0#8 ∧ t.pc = 1#16 := by decide

/-- S3. -/
theorem test_step_unrecognised :
    let t := go (withKeys { program [] with dt := 3#8, st := 1#8 } [4#4])
    t.pc = 0x202#16 ∧ t.dt = 2#8 ∧ t.st = 0#8 ∧ t.diagValid = true ∧ t.diagOpcode = 0#16 ∧ t.keyAt 4#4 = false := by decide

/-- S6. -/
theorem test_step_void_after_fault :
    let s := withKeys { program [0x6A11#16] with fault := .stackUnderflow, dt := 5#8 } [2#4]
    go s = s := by decide

/-! ### One-step vectors: control transfer (2.2) -/

/-- C12. -/
theorem test_jump_odd : (go (program [0x1201#16])).pc = 0x201#16 := by decide

/-- C4: the pushed return address has wrapped. -/
theorem test_call_pushes_wrapped :
    let t := go (withMem { program [] with pc := 0xFFE#16 } 0xFFE#16 [0x23#8, 0x00#8])
    t.stackEntry 0 = some 0#16 ∧ t.sp = 1 ∧ t.pc = 0x300#16 := by decide

/-- C6. -/
theorem test_call_on_full_stack :
    let s := { program [0x2300#16] with stack := 0x222#16 :: List.replicate 15 0#16, stackFree := [] }
    let t := go s
    t.fault = .stackOverflow ∧ t.pc = 0x202#16 ∧ t.sp = 16 ∧ t.stackEntry 15 = some 0x222#16 := by decide

/-- C13. -/
theorem test_return_pops_last :
    let t := go { program [0x00EE#16] with stack := [0xFFE#16, 0x206#16], stackFree := List.replicate 14 0#16 }
    t.pc = 0xFFE#16 ∧ t.sp = 1 ∧ t.stackEntry 0 = some 0x206#16 ∧ t.stackEntry 1 = some 0xFFE#16 := by decide

/-- C5. -/
theorem test_return_on_empty_stack :
    let t := go (withKeys { program [0x00EE#16] with dt := 4#8 } [1#4])
    t.fault = .stackUnderflow ∧ t.pc = 0x202#16 ∧ t.sp = 0 ∧ t.dt = 3#8 ∧ t.keyAt 1#4 = true := by decide

/-- C1. -/
theorem test_skip_equal_immediate_wraps :
    (go (withMem { program [] with pc := 0xFFC#16 } 0xFFC#16 [0x31#8, 0x00#8])).pc = 0#16 := by decide

/-- C15. -/
theorem test_no_skip_equal_immediate : (go (withV (program [0x3100#16]) [(1#4, 1#8)])).pc = 0x202#16 := by decide

/-- C10, C11. -/
theorem test_skip_not_equal_immediate :
    (go (withV (program [0x4A05#16]) [(0xA#4, 5#8)])).pc = 0x202#16 ∧
    (go (withV (program [0x4A05#16]) [(0xA#4, 6#8)])).pc = 0x204#16 := by decide

/-- C16, C17. -/
theorem test_skip_registers :
    (go (withV (program [0x5120#16]) [(1#4, 7#8), (2#4, 7#8)])).pc = 0x204#16 ∧
    (go (withV (program [0x9120#16]) [(1#4, 7#8), (2#4, 8#8)])).pc = 0x204#16 ∧
    (go (withV (program [0x9110#16]) [(1#4, 9#8)])).pc = 0x202#16 := by decide

/-- C2, C3: only V0 is added. -/
theorem test_jump_indexed :
    (go (withV (program [0xBFFF#16]) [(0#4, 2#8), (0xF#4, 9#8)])).pc = 0x001#16 ∧
    (go (withV (program [0xB300#16]) [(0#4, 4#8), (3#4, 9#8)])).pc = 0x304#16 := by decide

/-! ### One-step vectors: arithmetic, logic, shift, random (2.3) -/

/-- A0, A36. -/
theorem test_load_immediate :
    (go (program [0x6132#16])).getV 1#4 = 0x32#8 ∧ (go (program [0x6FFF#16])).getV 0xF#4 = 0xFF#8 := by decide

/-- A1, A2. -/
theorem test_add_immediate :
    (go (withV (program [0x7101#16]) [(1#4, 0xFF#8)])).getV 1#4 = 0#8 ∧
    (go (withV (program [0x7101#16]) [(1#4, 0xFF#8)])).getV 0xF#4 = 0#8 ∧
    (go (withV (program [0x7F01#16]) [(0xF#4, 0xFF#8)])).getV 0xF#4 = 0#8 := by decide

/-- A37, A38. -/
theorem test_move :
    (go (withV (program [0x8F10#16]) [(1#4, 0x12#8)])).getV 0xF#4 = 0x12#8 ∧
    (go (withV (program [0x8120#16]) [(2#4, 0x7E#8)])).getV 1#4 = 0x7E#8 := by decide

/-- A34, A35, A32. -/
theorem test_logic :
    (go (withV (program [0x8121#16]) [(1#4, 0xF0#8), (2#4, 0x0F#8), (0xF#4, 9#8)])).getV 1#4 = 0xFF#8 ∧
    (go (withV (program [0x8121#16]) [(1#4, 0xF0#8), (2#4, 0x0F#8), (0xF#4, 9#8)])).getV 0xF#4 = 9#8 ∧
    (go (withV (program [0x8122#16]) [(1#4, 0xF0#8), (2#4, 0x3C#8)])).getV 1#4 = 0x30#8 ∧
    (go (withV (program [0x8123#16]) [(1#4, 0xF0#8), (2#4, 0x3C#8)])).getV 1#4 = 0xCC#8 := by decide

/-- A3, A4: sums 255 and 256. -/
theorem test_add_carry_boundary :
    (go (withV (program [0x8014#16]) [(0#4, 0xFF#8), (0xF#4, 7#8)])).getV 0xF#4 = 0#8 ∧
    (go (withV (program [0x8014#16]) [(0#4, 0xFF#8), (1#4, 1#8)])).getV 0#4 = 0#8 ∧
    (go (withV (program [0x8014#16]) [(0#4, 0xFF#8), (1#4, 1#8)])).getV 0xF#4 = 1#8 := by decide

/-- A7, A8. -/
theorem test_add_vf_aliased :
    (go (withV (program [0x8F14#16]) [(0xF#4, 0xC8#8), (1#4, 0x64#8)])).getV 0xF#4 = 0x2C#8 ∧
    (go (withV (program [0x81F4#16]) [(0xF#4, 0xC8#8), (1#4, 0x64#8)])).getV 1#4 = 0x2C#8 ∧
    (go (withV (program [0x81F4#16]) [(0xF#4, 0xC8#8), (1#4, 0x64#8)])).getV 0xF#4 = 1#8 := by decide

/-- A9, A10, A11. -/
theorem test_sub :
    (go (withV (program [0x8125#16]) [(1#4, 7#8), (2#4, 7#8), (0xF#4, 5#8)])).getV 0xF#4 = 0#8 ∧
    (go (withV (program [0x8125#16]) [(1#4, 5#8), (2#4, 7#8)])).getV 1#4 = 0xFE#8 ∧
    (go (withV (program [0x8125#16]) [(1#4, 7#8), (2#4, 5#8)])).getV 1#4 = 2#8 ∧
    (go (withV (program [0x8125#16]) [(1#4, 7#8), (2#4, 5#8)])).getV 0xF#4 = 1#8 := by decide

/-- A13, A14, A15, A15b. -/
theorem test_sub_vf_aliased :
    (go (withV (program [0x81F5#16]) [(1#4, 5#8), (0xF#4, 3#8)])).getV 1#4 = 4#8 ∧
    (go (withV (program [0x8F15#16]) [(0xF#4, 9#8), (1#4, 3#8)])).getV 0xF#4 = 0xFE#8 ∧
    (go (withV (program [0x8F15#16]) [(0xF#4, 3#8), (1#4, 9#8)])).getV 0xF#4 = 0xF7#8 ∧
    (go (withV (program [0x8FF5#16]) [(0xF#4, 3#8)])).getV 0xF#4 = 0#8 := by decide

/-- A17, A17b, A18, A19. -/
theorem test_subn :
    (go (withV (program [0x8127#16]) [(1#4, 7#8), (2#4, 5#8)])).getV 1#4 = 0xFE#8 ∧
    (go (withV (program [0x8127#16]) [(1#4, 3#8), (2#4, 0xA#8)])).getV 0xF#4 = 1#8 ∧
    (go (withV (program [0x81F7#16]) [(1#4, 5#8), (0xF#4, 9#8)])).getV 1#4 = 0xFC#8 ∧
    (go (withV (program [0x8F17#16]) [(0xF#4, 3#8), (1#4, 9#8)])).getV 0xF#4 = 8#8 := by decide

/-- A20, A24. -/
theorem test_shr :
    let t := go (withV (program [0x8126#16]) [(1#4, 0xAA#8), (2#4, 5#8)])
    let u := go (withV (program [0x8F16#16]) [(0xF#4, 9#8), (1#4, 7#8)])
    t.getV 0xF#4 = 1#8 ∧ t.getV 2#4 = 2#8 ∧ t.getV 1#4 = 2#8 ∧ u.getV 1#4 = 3#8 ∧ u.getV 0xF#4 = 3#8 := by decide

/-- A25, A27, A28b. -/
theorem test_shl :
    let t := go (withV (program [0x812E#16]) [(2#4, 0x81#8)])
    let u := go (withV (program [0x81FE#16]) [(1#4, 0x11#8), (0xF#4, 0x80#8)])
    t.getV 0xF#4 = 1#8 ∧ t.getV 2#4 = 2#8 ∧ t.getV 1#4 = 2#8 ∧ u.getV 1#4 = 2#8 ∧ u.getV 0xF#4 = 2#8 ∧
    (go (withV (program [0x8FFE#16]) [(0xF#4, 0xFF#8)])).getV 0xF#4 = 2#8 := by decide

/-- A30: NN = 0 masks every draw. The draw itself is a free value, so no other vector of it can be evaluated. -/
theorem test_random_masked_to_zero : (go (withV (program [0xC100#16]) [(1#4, 0x55#8)])).getV 1#4 = 0#8 := by
  have h : ∀ r : Byte, r &&& 0#8 = 0#8 := by decide
  exact h _

/-! ### One-step vectors: I, BCD, block store and load (2.4) -/

/-- I12, I13. -/
theorem test_load_index :
    (go { program [0xA000#16] with i := 0x123#16 }).i = 0#16 ∧ (go (program [0xAFFF#16])).i = 0xFFF#16 := by decide

/-- I2. -/
theorem test_add_index_wraps :
    let t := go { withV (program [0xF11E#16]) [(1#4, 0xFF#8), (0xF#4, 7#8)] with i := 0xF80#16 }
    t.i = 0x07F#16 ∧ t.getV 0xF#4 = 7#8 := by decide

/-- I3, I4: the whole content, not its low nibble. -/
theorem test_glyph_address :
    (go (withV (program [0xF129#16]) [(1#4, 0x10#8)])).i = 80#16 ∧
    (go (withV (program [0xF129#16]) [(1#4, 0xFF#8)])).i = 1275#16 := by decide

/-- I5. -/
theorem test_bcd_wraps :
    let t := go { withV (program [0xF033#16]) [(0#4, 0xFF#8)] with i := 0xFFF#16 }
    t.memRead 0xFFF#16 = 2#8 ∧ t.memRead 0#16 = 5#8 ∧ t.memRead 1#16 = 5#8 ∧ t.memRead 2#16 = 0x90#8 ∧
    t.i = 0xFFF#16 := by decide

/-- I7. -/
theorem test_block_store_wraps :
    let t := go { withV (program [0xF355#16]) [(0#4, 0xA0#8), (1#4, 0xA1#8), (2#4, 0xA2#8), (3#4, 0xA3#8)] with i := 0xFFE#16 }
    t.memRead 0xFFD#16 = 0#8 ∧ t.memRead 0xFFE#16 = 0xA0#8 ∧ t.memRead 0xFFF#16 = 0xA1#8 ∧ t.memRead 0#16 = 0xA2#8 ∧
    t.memRead 1#16 = 0xA3#8 ∧ t.memRead 2#16 = 0x90#8 ∧ t.i = 2#16 := by decide

/-- I8. -/
theorem test_block_load_wraps :
    let t := go { withMem (withV (program [0xF365#16]) [(4#4, 0x77#8)]) 0xFFE#16 [0x11#8, 0x22#8] with i := 0xFFE#16 }
    t.getV 0#4 = 0x11#8 ∧ t.getV 1#4 = 0x22#8 ∧ t.getV 2#4 = 0xF0#8 ∧ t.getV 3#4 = 0x90#8 ∧ t.getV 4#4 = 0x77#8 ∧
    t.i = 2#16 := by decide

/-! ### One-step vectors: display (2.5) -/

/-- D10. -/
theorem test_clear_screen :
    let t := go { withV (program [0x00E0#16]) [(0xF#4, 1#8)] with fb := lit [0, 2047] }
    t.fb = 0#2048 ∧ t.du = true ∧ t.getV 0xF#4 = 1#8 := by decide

/-- D4: wrap per pixel. -/
theorem test_draw_wraps_columns :
    let t := go { withMem (withV (program [0xD011#16]) [(0#4, 62#8)]) 0x20C#16 [0xFF#8] with i := 0x20C#16 }
    t.fb = lit [62, 63, 0, 1, 2, 3, 4, 5] ∧ t.getV 0xF#4 = 0#8 ∧ t.du = true := by decide

/-- D7: y from the old VF, and a collision. -/
theorem test_draw_collision_with_vf_coordinate :
    let t := go { withMem (withV (program [0xD1F1#16]) [(1#4, 2#8), (0xF#4, 3#8)]) 0x20C#16 [0x80#8]
                  with i := 0x20C#16, fb := lit [194] }
    t.fb = 0#2048 ∧ t.getV 0xF#4 = 1#8 ∧ t.du = true := by decide

/-! ### One-step vectors: keys and timers (2.6) -/

/-- K1, K3. -/
theorem test_skip_if_key :
    (go (withKeys (withV (program [0xE19E#16]) [(1#4, 7#8)]) [7#4, 3#4])).pc = 0x204#16 ∧
    (go (withKeys (withV (program [0xE19E#16]) [(1#4, 7#8)]) [7#4, 3#4])).keyAt 3#4 = false ∧
    (go (withKeys (withV (program [0xE19E#16]) [(1#4, 0x17#8)]) [7#4])).pc = 0x202#16 := by decide

/-- K4, K5. -/
theorem test_skip_if_not_key :
    (go (withKeys (withV (program [0xE1A1#16]) [(1#4, 0x17#8)]) [7#4])).pc = 0x204#16 ∧
    (go (withKeys (withV (program [0xE1A1#16]) [(1#4, 7#8)]) [7#4])).pc = 0x202#16 := by decide

/-- K7. -/
theorem test_wait_for_key_lowest :
    let t := go (withKeys (program [0xF10A#16]) [9#4, 3#4])
    t.getV 1#4 = 3#8 ∧ t.pc = 0x202#16 ∧ t.keyAt 9#4 = false := by decide

/-- K8. -/
theorem test_wait_for_key_retries :
    let t := go (withMem { program [] with pc := 0xFFE#16, dt := 5#8 } 0xFFE#16 [0xF1#8, 0x0A#8])
    t.pc = 0xFFE#16 ∧ t.dt = 4#8 ∧ t.getV 1#4 = 0#8 := by decide

/-- T1, T3. -/
theorem test_read_delay_timer :
    (go (withV { program [0xF207#16] with dt := 10#8 } [(2#4, 0xEE#8)])).getV 2#4 = 9#8 ∧
    (go (withV (program [0xF207#16]) [(2#4, 0xEE#8)])).getV 2#4 = 0#8 := by decide

/-- T4, T5. -/
theorem test_write_timers :
    (go (withV { program [0xF015#16] with dt := 200#8 } [(0#4, 10#8)])).dt = 10#8 ∧
    (go (withV { program [0xF318#16] with st := 2#8 } [(3#4, 60#8)])).st = 60#8 := by decide

/-! ### Host transactions (2.7) -/

/-- L4. -/
theorem test_load_one_byte : (go (State.reset.hostLoad [0x12#8]).2).pc = 0x200#16 := by decide

/-- L5. -/
theorem test_reset_erases :
    let s := withMem (withV { program [0x1234#16] with fault := .stackUnderflow, dt := 9#8, i := 0x321#16 } [(3#4, 0x44#8)])
      3#16 [0#8]
    s.hostReset = State.reset := by decide

/-- R22, R26, U12: FONT is a parameter. With 80 other bytes a Reset lays those, and the last of them is at 79. -/
theorem test_reset_lays_configured_font :
    let s := withMem { program [0x1234#16] with font := Vector.replicate 80 0x55#8 } 79#16 [0#8, 0x77#8]
    s.memRead 79#16 = 0#8 ∧ s.hostReset.memRead 0#16 = 0x55#8 ∧ s.hostReset.memRead 79#16 = 0x55#8 ∧
    s.hostReset.memRead 80#16 = 0#8 ∧ s.hostReset.font = s.font := by decide

/-- R26, C13's stack: the entries are 0 again after a Reset, those a return vacated too. -/
theorem test_reset_clears_stack_entries :
    let s := { State.reset with stack := [0x206#16], stackFree := [0xFFE#16] }
    s.hostReset.stackEntry 0 = some 0#16 ∧ s.hostReset.stackEntry 1 = some 0#16 ∧ s.hostReset.stackEntry 2 = none := by
  decide

/-- R170: the codes of the three conditions. -/
theorem test_fault_codes :
    FaultStatus.stackUnderflow.code = 1 ∧ FaultStatus.stackOverflow.code = 2 ∧ LoadStatus.outOfSpace.code = some 3 := by
  decide

/-- X11. -/
theorem test_key_events :
    (State.reset.hostKeyEvent 0x0F#8).2.keyAt 0xF#4 = true ∧ State.reset.hostKeyEvent 0x10#8 = (.silent, State.reset) ∧
    State.reset.hostKeyEvent 0xFE#8 = (.silent, State.reset) ∧
    State.reset.hostKeyEvent 0xFF#8 = (.exitEvent, State.reset) := by decide

/-! ### Witnesses: the hypotheses of every statement can be met

One theorem per statement with hypotheses, `witness_<Statement>`, each clause at concrete states and operands. -/

theorem witness_EncodeInvertsDecode : decode 0xFF65#16 = .instr (.ldVxMem 0xF#4) := by decide

theorem witness_DecoderFollowsOpcodeMap :
    decode 0x9FF0#16 = .instr (.sneVxVy 0xF#4 0xF#4) ∧ decode 0xFFFF#16 = .unrecognised 0xFFFF#16 := by decide

theorem witness_LoadImmediateAndMove :
    fieldT 0x6FFF#16 = 6#4 ∧ fieldT 0x8FF0#16 = 8#4 ∧ fieldN 0x8FF0#16 = 0#4 := by decide

theorem witness_AddImmediateWrapsWithoutFlag : fieldT 0x7FFF#16 = 7#4 := by decide

theorem witness_LogicIsBitwiseWithoutFlag :
    fieldT 0x8FF1#16 = 8#4 ∧ fieldN 0x8FF1#16 = 1#4 ∧ fieldT 0x8FF2#16 = 8#4 ∧ fieldN 0x8FF2#16 = 2#4 ∧
    fieldT 0x8FF3#16 = 8#4 ∧ fieldN 0x8FF3#16 = 3#4 := by decide

/-- The clauses of the five flag statements: X and Y each F or not. -/
theorem witness_flag_operands : (0xE#4 ≠ vF ∧ 0#4 ≠ vF) ∧ (0xE#4 ≠ vF ∧ 0xF#4 = vF) ∧ (0xF#4 = vF ∧ 0xE#4 ≠ vF) := by
  decide

/-- Both values of the flag of `AddSetsCarryFlag`, at sums 255 and 256. -/
theorem witness_AddSetsCarryFlag :
    let s := withV State.reset [(0#4, 0xFF#8)]
    let u := withV State.reset [(0#4, 0xFF#8), (1#4, 1#8)]
    ¬ (s.getV 0#4).toNat + (s.getV 1#4).toNat > 255 ∧ (u.getV 0#4).toNat + (u.getV 1#4).toNat > 255 := by decide

/-- Both values of the flag of `SubtractSetsGreaterFlag`, at equal operands and one above. -/
theorem witness_SubtractSetsGreaterFlag :
    let s := withV State.reset [(0#4, 1#8)]
    ¬ (s.getV 1#4).toNat > (s.getV 2#4).toNat ∧ (s.getV 0#4).toNat > (s.getV 1#4).toNat := by decide

/-- Both values of the flag of `ReverseSubtractSetsGreaterFlag`. -/
theorem witness_ReverseSubtractSetsGreaterFlag :
    let s := withV State.reset [(0#4, 1#8)]
    ¬ (s.getV 2#4).toNat > (s.getV 1#4).toNat ∧ (s.getV 0#4).toNat > (s.getV 1#4).toNat := by decide

theorem witness_RandomByteIsMaskedDraw : (0x7F#8).getLsbD 7 = false := by decide

theorem witness_ConditionalSkips :
    fieldT 0x3FFF#16 = 3#4 ∧ fieldT 0x4FFF#16 = 4#4 ∧ fieldT 0x5FF0#16 = 5#4 ∧ fieldN 0x5FF0#16 = 0#4 ∧
    fieldT 0x9FF0#16 = 9#4 ∧ fieldN 0x9FF0#16 = 0#4 ∧
    (let s := withV { State.reset with pc := 0xFFE#16 } [(1#4, 0xFF#8)]
     s.getV 1#4 = 0xFF#8 ∧ s.getV 2#4 ≠ 0xFF#8 ∧ s.getV 2#4 = s.getV 3#4 ∧ s.getV 1#4 ≠ s.getV 2#4) := by decide

theorem witness_JumpTargets : fieldT 0x1FFF#16 = 1#4 ∧ fieldT 0xBFFF#16 = 0xB#4 := by decide

/-- The last free entry. -/
theorem witness_CallPushesReturnAddress :
    let s := { State.reset with stack := List.replicate 15 0#16, stackFree := [0#16] }
    s.sp < s.stackDepth ∧ 14 ≠ s.sp := by decide

theorem witness_ReturnPopsIntoCounter :
    { State.reset with stack := [0xFFF#16] }.stack = 0xFFF#16 :: [] := by decide

theorem witness_ReturnUndoesCall :
    ∃ s t u : State, s.sp < s.stackDepth ∧ exec (.callNnn 0x300#12) s = .next t ∧ u.stack = t.stack :=
  ⟨State.reset, after (.callNnn 0x300#12) State.reset, { State.reset with stack := [0x200#16] },
    by decide, exec_after _ _, by decide⟩

theorem witness_StackFaultEntry :
    (let s := program [0x00EE#16]
     s.fault = .none ∧ decode s.fetch = .instr .ret ∧ s.sp = 0) ∧
    (let s := { program [0x2FFF#16] with stack := List.replicate 16 0#16, stackFree := [] }
     s.fault = .none ∧ decode s.fetch = .instr (.callNnn 0xFFF#12) ∧ s.sp = s.stackDepth) := by decide

theorem witness_OnlyStackLimitsFault :
    ∃ s t : State, s.fault = .none ∧ step s = .next t ∧ t.fault ≠ .none :=
  ⟨program [0x00EE#16], go (program [0x00EE#16]), by decide, step_go _, by decide⟩

theorem witness_HaltedCoreNeverChanges :
    { State.reset with fault := .stackOverflow }.fault ≠ .none := by decide

theorem witness_IndexLoads :
    fieldT 0xAFFF#16 = 0xA#4 ∧ fieldT 0xFF29#16 = 0xF#4 ∧ fieldNN 0xFF29#16 = 0x29#8 := by decide

/-- The stored block crosses the end of memory; address 0x002 is the first one outside it. -/
theorem witness_DecimalDigitsStored :
    fieldT 0xFF33#16 = 0xF#4 ∧ fieldNN 0xFF33#16 = 0x33#8 ∧
    (let s := { State.reset with i := 0xFFF#16 }
     ∀ k < 3, mask12 (s.dataAddr k) ≠ mask12 2#16) := by decide

theorem witness_BlockStoreWritesRegisters :
    (0xF#4).toNat ≤ (0xF#4).toNat ∧
    (let s := { State.reset with i := 0xFF8#16 }
     ∀ k < (0xF#4).toNat + 1, mask12 (s.dataAddr k) ≠ mask12 8#16) := by decide

theorem witness_BlockLoadReadsRegisters :
    fieldT 0xF065#16 = 0xF#4 ∧ fieldNN 0xF065#16 = 0x65#8 ∧ (0#4).toNat ≤ (0#4).toNat ∧ (0#4).toNat < (1#4).toNat := by
  decide

theorem witness_BlockStoreThenLoadRestores :
    ∃ s t u : State, exec (.ldMemVx 2#4) s = .next t ∧ (∀ a, u.memRead a = t.memRead a) ∧ u.i = s.i ∧ u.getV 0#4 ≠ s.getV 0#4 :=
  let s := withV { State.reset with i := 0x400#16 } [(0#4, 0x11#8), (1#4, 0x22#8), (2#4, 0x33#8)]
  ⟨s, after (.ldMemVx 2#4) s, { State.reset with mem := (after (.ldMemVx 2#4) s).mem, i := 0x400#16 },
    exec_after _ _, fun _ => rfl, by decide, by decide⟩

theorem witness_ReadReturnsLastWrite :
    (0xFFFF#16).toNat % 4096 = (0x0FFF#16).toNat % 4096 ∧ (0xFFFF#16).toNat % 4096 ≠ (0#16).toNat % 4096 := by decide

theorem witness_StoredWordIsFetched :
    ∃ s t u : State, 1 ≤ (1#4).toNat ∧ exec (.ldMemVx 1#4) s = .next t ∧ (∀ a, u.memRead a = t.memRead a) ∧
      u.pc = s.i :=
  let s := withV { State.reset with i := 0xFFF#16 } [(0#4, 0x6A#8), (1#4, 0x11#8)]
  ⟨s, after (.ldMemVx 1#4) s, { State.reset with mem := (after (.ldMemVx 1#4) s).mem, pc := 0xFFF#16 },
    by decide, exec_after _ _, fun _ => rfl, by decide⟩

theorem witness_ClearScreen : decode 0x00E0#16 = .instr .cls ∧ 2047 < 2048 := by decide

/-- The corner pixel of `SpriteFormula`, lit by D12's sprite at column 6, row 31. -/
theorem witness_SpriteFormula :
    let s := withMem (withV { State.reset with i := 0x20C#16 } [(0#4, 0xFF#8), (1#4, 0xFF#8)]) 0x20C#16 [1#8]
    6 < 64 ∧ 31 < 32 ∧ (after (.drwVxVyN 0#4 1#4 1#4) s).fbAt (6 + 64 * 31) = true := by decide

theorem witness_DrawingTwiceErases :
    ∃ s t u : State, exec (.drwVxVyN 0#4 1#4 1#4) s = .next t ∧ u.fb = t.fb ∧
      (∀ a, u.memRead a = s.memRead a) ∧ u.i = s.i ∧
      u.getV 0#4 = s.getV 0#4 ∧ u.getV 1#4 = s.getV 1#4 ∧ s.fbAt 0 = false ∧ t.fbAt 0 = true :=
  let s := withMem { State.reset with i := 0x20C#16 } 0x20C#16 [0x80#8]
  let t := after (.drwVxVyN 0#4 1#4 1#4) s
  ⟨s, t, t, exec_after _ _, rfl, fun _ => rfl, by decide, by decide, by decide, by decide, by decide⟩

theorem witness_DisplayFlagMarksDrawing :
    ∃ s t : State, s.fault = .none ∧ step s = .next t ∧ decode s.fetch = .instr .cls :=
  ⟨program [0x00E0#16], go (program [0x00E0#16]), by decide, step_go _, by decide⟩

/-- A pressed key, a key not pressed, and a key number above 15. -/
theorem witness_KeySkips :
    (let s := withKeys (withV State.reset [(1#4, 15#8)]) [15#4]
     (15#4).toNat = (s.getV 1#4).toNat ∧ s.keyAt 15#4 = true) ∧
    (let s := withKeys (withV State.reset [(1#4, 15#8)]) [14#4]
     ∀ k : Nibble, k.toNat = (s.getV 1#4).toNat → s.keyAt k = false) ∧
    (let s := withKeys (withV State.reset [(1#4, 16#8)]) [0#4]
     ∀ k : Nibble, k.toNat = (s.getV 1#4).toNat → s.keyAt k = false) := by decide

theorem witness_WaitForKey :
    (∀ k, State.reset.keyAt k = false) ∧
    (let s := withKeys State.reset [3#4, 15#4]
     s.keyAt 3#4 = true ∧ ∀ q : Nibble, q.toNat < (3#4).toNat → s.keyAt q = false) := by decide

theorem witness_WaitForKeyRetries :
    (let s := withMem { State.reset with pc := 0xFFF#16 } 0xFFF#16 [0xF1#8, 0x0A#8]
     s.fault = .none ∧ s.pc.toNat < 4096 ∧ decode s.fetch = .instr (.ldVxK 1#4) ∧ ∀ k, s.keyAt k = false) ∧
    (let s := withKeys (program [0xF10A#16]) [0#4]
     s.fault = .none ∧ s.pc.toNat < 4096 ∧ decode s.fetch = .instr (.ldVxK 1#4) ∧ s.keyAt 0#4 = true ∧
       ∀ q : Nibble, q.toNat < (0#4).toNat → s.keyAt q = false) := by decide

theorem witness_KeyFlagsClearedByStep :
    ∃ s t : State, s.fault = .none ∧ step s = .next t ∧ t.fault = .none ∧ s.keyAt 7#4 = true :=
  let s := withKeys (program [0x6000#16]) [7#4]
  ⟨s, go s, by decide, step_go _, by decide, by decide⟩

theorem witness_TimerAccess :
    fieldT 0xFF07#16 = 0xF#4 ∧ fieldNN 0xFF07#16 = 0x07#8 ∧ fieldT 0xFF15#16 = 0xF#4 ∧ fieldNN 0xFF15#16 = 0x15#8 ∧
    fieldT 0xFF18#16 = 0xF#4 ∧ fieldNN 0xFF18#16 = 0x18#8 := by decide

/-- Each clause of `TimersCountEachStep`, at timers 0, 1 and 255. -/
theorem witness_TimersCountEachStep :
    (∃ s t : State, s.fault = .none ∧ step s = .next t ∧ s.dt = 255#8 ∧ s.st = 0#8 ∧
      (∀ x, decode s.fetch ≠ .instr (.ldDtVx x)) ∧ (∀ x, decode s.fetch ≠ .instr (.ldStVx x))) ∧
    decode (program [0xF015#16]).fetch = .instr (.ldDtVx 0#4) ∧ decode (program [0xF318#16]).fetch = .instr (.ldStVx 3#4) ∧
    (let s := { program [0xF207#16] with dt := 1#8 }
     s.fault = .none ∧ decode s.fetch = .instr (.ldVxDt 2#4)) :=
  ⟨⟨{ program [0x6000#16] with dt := 255#8 }, go { program [0x6000#16] with dt := 255#8 }, by decide, step_go _, by decide,
    by decide, by decide, by decide⟩, by decide, by decide, by decide⟩

theorem witness_DelayTimerRunsDown :
    ∃ s t u : State, LeavesDelayTimer 1 s ∧ core.run 1 s = .next t ∧ t.fault = .none ∧
      decode t.fetch = .instr (.ldVxDt 2#4) ∧ step t = .next u := by
  refine ⟨program [0x6000#16, 0xF207#16], go (program [0x6000#16, 0xF207#16]), go (go (program [0x6000#16, 0xF207#16])),
    ⟨by decide, by decide, fun t h => ?_⟩, core_run_next (step_go _) 0, by decide, by decide, step_go _⟩
  rw [step_go] at h
  injection h with h
  subst h
  show (go (program [0x6000#16, 0xF207#16])).fault = .none
  decide

/-- Both clauses of `StepRunsDecodedInstruction`: an instruction that goes on, and a 00EE that faults. -/
theorem witness_StepRunsDecodedInstruction :
    (∃ (s p t : State) (i : Instr), s.fault = .none ∧
      decode (wordOfBytes (s.memRead s.pc) (s.memRead (s.pc + 1#16))) = .instr i ∧ p = s.prepare ∧ exec i p = .next t ∧
      t.fault = .none) ∧
    (∃ (s p t : State) (i : Instr), s.fault = .none ∧
      decode (wordOfBytes (s.memRead s.pc) (s.memRead (s.pc + 1#16))) = .instr i ∧ p = s.prepare ∧ exec i p = .next t ∧
      t.fault ≠ .none) :=
  let s := program [0xFF55#16]
  let u := program [0x00EE#16]
  ⟨⟨s, s.prepare, after (.ldMemVx 0xF#4) s.prepare, .ldMemVx 0xF#4, by decide, by decide, rfl, exec_after _ _, by decide⟩,
    ⟨u, u.prepare, after .ret u.prepare, .ret, by decide, by decide, rfl, exec_after _ _, by decide⟩⟩

theorem witness_UnrecognisedWordIsNoOp :
    State.reset.fault = .none ∧ decode State.reset.fetch = .unrecognised State.reset.fetch := by decide

/-- One word for each arm of `CounterAfterStep` (the last two take the final arm), on a state with V1 = 16 (no key), a pressed
key and a stack entry: the premises hold and the word decodes to the arm's instruction. -/
theorem witness_CounterAfterStep :
    ∀ p ∈ [(0x1200#16, Decoded.instr (.jpNnn 0x200#12)), (0x2300#16, .instr (.callNnn 0x300#12)),
        (0xBFFF#16, .instr (.jpV0Nnn 0xFFF#12)), (0x00EE#16, .instr .ret), (0x3110#16, .instr (.seVxNn 1#4 0x10#8)),
        (0x4110#16, .instr (.sneVxNn 1#4 0x10#8)), (0x5120#16, .instr (.seVxVy 1#4 2#4)),
        (0x9120#16, .instr (.sneVxVy 1#4 2#4)), (0xE19E#16, .instr (.skpVx 1#4)), (0xE2A1#16, .instr (.sknpVx 2#4)),
        (0xF10A#16, .instr (.ldVxK 1#4)), (0x6000#16, .instr (.ldVxNn 0#4 0#8)), (0x0000#16, .unrecognised 0x0000#16)],
      let s := withKeys (withV { program [p.1] with stack := [0x204#16] } [(1#4, 16#8)]) [0#4]
      s.fault = .none ∧ s.pc.toNat < 4096 ∧ step s = .next (go s) ∧ (go s).fault = .none ∧ decode s.fetch = p.2 := by
  intro p hp s
  refine ⟨rfl, by show (512#16).toNat < 4096; decide, step_go s, ?_⟩
  revert hp s
  revert p
  decide

theorem witness_JumpToSelfOnlyCountsTimers :
    let s := { program [0x1200#16] with dt := 2#8 }
    s.fault = .none ∧ s.pc.toNat = (0x200#12).toNat ∧ decode s.fetch = .instr (.jpNnn 0x200#12) := by decide

theorem program_eq (ops : List Word) : program ops = { State.reset with mem := (program ops).mem } :=
  State.storeBytes_eq _ _ _

theorem program_call_inv : (program [0x2300#16]).Inv where
  index := by rw [program_eq]; decide
  counter := by rw [program_eq]; decide
  valid := by rw [program_eq]; exact fun e he => absurd he List.not_mem_nil
  free := by rw [program_eq]; exact fun e he => by rw [List.eq_of_mem_replicate he]; decide
  memory := State.wf_storeBytes (Memory.wf_reset _ _) _ _

theorem witness_StepKeepsTheInvariant : ∃ s t : State, s.Inv ∧ step s = .next t :=
  ⟨program [0x2300#16], go (program [0x2300#16]), program_call_inv, step_go _⟩

theorem witness_TransactionsKeepTheInvariant :
    ∃ (ts : List Transaction) (s : State), s.Inv ∧ runTransactions ts s ≠ s :=
  ⟨[.keyEvent 7#8, .step, .load [0x12#8]], program [0x2300#16], program_call_inv, by decide⟩

theorem witness_InstructionsChangeOnlyTheirOwn : ∃ s t : State, exec (.ldVxMem 0xF#4) s = .next t :=
  ⟨State.reset, after (.ldVxMem 0xF#4) State.reset, exec_after _ _⟩

theorem witness_IndexAfterInstruction : ∃ s t : State, exec (.addIVx 1#4) s = .next t ∧ t.i ≠ s.i :=
  let s := withV { State.reset with i := 0xFFF#16 } [(1#4, 1#8)]
  ⟨s, after (.addIVx 1#4) s, exec_after _ _, by decide⟩

/-- A key that is still pressed after a Step: the Step faulted, so phase 5 did not clear it. -/
theorem witness_ProgramNeverPressesKeys :
    ∃ s t : State, core.run 1 s = .next t ∧ t.keyAt 1#4 = true :=
  let s := withKeys (program [0x00EE#16]) [1#4]
  ⟨s, go s, core_run_next (step_go s) 0, by decide⟩

/-- The last entry, the last font byte, the first and the last byte above. -/
theorem witness_ResetTable :
    15 < 16 ∧ (79#16).toNat < 80 ∧ (80 ≤ (80#16).toNat ∧ (80#16).toNat < 4096) ∧
    (80 ≤ (4095#16).toNat ∧ (4095#16).toNat < 4096) := by decide

theorem witness_LoadCopiesImage :
    (List.replicate 3584 0xAB#8).length ≤ 3584 ∧ 3583 < (List.replicate 3584 0xAB#8).length ∧
    (511 < 512 ∨ 512 + 3584 ≤ 511) ∧ (512 < 512 ∨ 512 + 0 ≤ 512) ∧ 4095 < 4096 :=
  ⟨List.length_replicate.le, lt_of_lt_of_eq (by decide) List.length_replicate.symm, by decide, by decide, by decide⟩

theorem witness_OversizeLoadWritesNothing : 3584 < (List.replicate 3585 0xAB#8).length :=
  lt_of_lt_of_eq (by decide) List.length_replicate.symm

theorem witness_FirstFetchIsTheImage :
    ∃ t : State, State.reset.hostReset.hostLoad [0x61#8, 0x32#8] = (.ok, t) :=
  ⟨(State.reset.hostReset.hostLoad [0x61#8, 0x32#8]).2, rfl⟩

theorem witness_KeyEventSetsOneFlag :
    14#4 ≠ 15#4 ∧ 16 ≤ (16#8).toNat ∧ (16#8).toNat ≤ 254 ∧ 16 ≤ (254#8).toNat ∧ (254#8).toNat ≤ 254 := by decide

end Sys2Proof.Machine.Tests
end

namespace Sys2Proof.Machine

variable {s t u : State}

/-! ### What every transaction keeps: the invariant of R24 and the parameters of R5 -/

/-- From `s` to `t` the invariant is kept and the parameters STACK_DEPTH and FONT are unchanged. -/
structure State.Keeps (s t : State) : Prop where
  inv : s.Inv → t.Inv
  depth : t.stackDepth = s.stackDepth
  font : t.font = s.font

theorem State.Keeps.refl (s : State) : s.Keeps s := ⟨id, rfl, rfl⟩

theorem State.Keeps.trans (h : s.Keeps t) (h' : t.Keeps u) : s.Keeps u :=
  ⟨h'.inv ∘ h.inv, h'.depth.trans h.depth, h'.font.trans h.font⟩

/-- A change of none of the pieces that the invariant and the parameters speak of. -/
theorem State.Keeps.of_eq (hi : t.i = s.i) (hpc : t.pc = s.pc) (hstack : t.stack = s.stack)
    (hfree : t.stackFree = s.stackFree) (hfont : t.font = s.font) (hmem : t.mem = s.mem) : s.Keeps t where
  inv h := ⟨hi ▸ h.index, hpc ▸ h.counter, hstack ▸ h.valid, hfree ▸ h.free, by rw [hfont, hmem]; exact h.memory⟩
  depth := by rw [State.stackDepth, hstack, hfree]; rfl
  font := hfont

/-! ### The operations -/

theorem State.keeps_setV (s : State) (r : Nibble) (b : Byte) : s.Keeps (s.setV r b) :=
  .of_eq rfl rfl rfl rfl rfl rfl

theorem State.keeps_setKey (s : State) (k : Nibble) (b : Bool) : s.Keeps (s.setKey k b) :=
  .of_eq rfl rfl rfl rfl rfl rfl

theorem State.keeps_raise (s : State) (f : FaultStatus) : s.Keeps (s.raise f) :=
  .of_eq rfl rfl rfl rfl rfl rfl

/-- I is masked on every write (R12, D4). -/
theorem State.keeps_setI (s : State) (w : Word) : s.Keeps (s.setI w) where
  inv h := { h with index := mask12_lt w }
  depth := rfl
  font := rfl

/-- PC is masked on every write (R13, D3). -/
theorem State.keeps_setPc (s : State) (w : Word) : s.Keeps (s.setPc w) where
  inv h := { h with counter := mask12_lt w }
  depth := rfl
  font := rfl

/-- A store keeps memory in its canonical form (log 20). -/
theorem State.keeps_memWrite (s : State) (a : Word) (b : Byte) : s.Keeps (s.memWrite a b) where
  inv h := { h with memory := State.wf_memWrite h.memory a b }
  depth := rfl
  font := rfl

theorem State.keeps_skipIf (s : State) (cond : Bool) : s.Keeps (s.skipIf cond) := by
  cases cond
  · exact .refl s
  · exact s.keeps_setPc _

theorem State.keeps_storeRegs (s : State) (n : Nat) : s.Keeps (s.storeRegs n) := by
  induction n with
  | zero => exact .refl s
  | succ k ih => exact ih.trans (State.keeps_memWrite _ _ _)

theorem State.keeps_loadRegs (s : State) (n : Nat) : s.Keeps (s.loadRegs n) := by
  rw [State.loadRegs_eq]
  exact .of_eq rfl rfl rfl rfl rfl rfl

theorem State.keeps_storeBytes (s : State) (base : Word) (bs : List Byte) : s.Keeps (s.storeBytes base bs) := by
  induction bs generalizing s base with
  | nil => exact .refl s
  | cons b bs ih => exact (s.keeps_memWrite base b).trans (ih _ _)

theorem State.keeps_isKeyPressed (s : State) (c : Byte) : s.Keeps (s.isKeyPressed c).2 := by
  rcases s.isKeyPressed_cases c with ⟨_, h⟩ | ⟨_, _, h⟩ | ⟨_, _, h⟩ <;> rw [h]
  · exact .refl s
  · exact .refl s
  · exact s.keeps_setKey _ _

/-! ### Phase 4 -/

/-- 00EE moves one entry from the valid ones to the vacated ones, or faults (R100). -/
theorem execRet_keeps (h : execRet s = .next t) : s.Keeps t := by
  rcases execRet_cases s with ⟨_, hr⟩ | ⟨w, rest, hs, hr⟩ <;> cases hr.symm.trans h
  · exact s.keeps_raise _
  · exact {
      inv := fun hi => { hi with
        counter := mask12_lt w
        valid := fun e he => hi.valid e (by simp [hs, he])
        free := List.forall_mem_cons.mpr ⟨hi.valid w (by simp [hs]), hi.free⟩ }
      depth := by simp [State.stackDepth, hs]; omega
      font := rfl }

/-- 2NNN puts PC, which is below 4096, in place of one free entry, or faults (R102). -/
theorem execCallNnn_keeps {nnn : Addr} (h : execCallNnn nnn s = .next t) : s.Keeps t := by
  rcases execCallNnn_cases nnn s with ⟨_, hr⟩ | ⟨_, e, rest, hs, hr⟩ <;> cases hr.symm.trans h
  · exact s.keeps_raise _
  · exact {
      inv := fun hi => { hi with
        counter := mask12_lt _
        valid := List.forall_mem_cons.mpr ⟨hi.counter, hi.valid⟩
        free := fun e he => hi.free e (by simp [hs, he]) }
      depth := by simp [State.stackDepth, hs]; omega
      font := rfl }

theorem execLdVxK_keeps {x : Nibble} (h : execLdVxK x s = .next t) : s.Keeps t := by
  rcases execLdVxK_cases x s with ⟨_, hr⟩ | ⟨k, _, _, hr⟩ <;> cases hr.symm.trans h
  · exact s.keeps_setPc _
  · exact (s.keeps_setKey k false).trans (State.keeps_setV _ _ _)

/-- Every instruction keeps the invariant and the parameters. The arms not named write V registers, timers, the display or
the count of draws alone. -/
theorem exec_keeps {i : Instr} (h : exec i s = .next t) : s.Keeps t := by
  cases i with
  | ret => exact execRet_keeps h
  | callNnn _ => exact execCallNnn_keeps h
  | ldVxK _ => exact execLdVxK_keeps h
  | jpNnn _ | jpV0Nnn _ => cases h; exact s.keeps_setPc _
  | seVxNn _ _ | sneVxNn _ _ | seVxVy _ _ | sneVxVy _ _ => cases h; exact s.keeps_skipIf _
  | skpVx _ | sknpVx _ => cases h; exact (s.keeps_isKeyPressed _).trans (State.keeps_skipIf _ _)
  | ldINnn _ | addIVx _ | ldFVx _ => cases h; exact s.keeps_setI _
  | ldBVx _ =>
    cases h
    exact ((s.keeps_memWrite _ _).trans (State.keeps_memWrite _ _ _)).trans (State.keeps_memWrite _ _ _)
  | ldMemVx _ => cases h; exact (s.keeps_storeRegs _).trans (State.keeps_setI _ _)
  | ldVxMem _ => cases h; exact (s.keeps_loadRegs _).trans (State.keeps_setI _ _)
  | _ => cases h; exact .of_eq rfl rfl rfl rfl rfl rfl

/-! ### Steps and transactions -/

/-- Phases 1 to 3 advance PC and write nothing else the invariant speaks of (R83). -/
theorem State.keeps_prepare (s : State) : s.Keeps s.prepare :=
  (s.keeps_setPc _).trans (.of_eq rfl rfl rfl rfl rfl rfl)

theorem State.keeps_finish (s : State) : s.Keeps s.finish := by
  rw [State.finish_eq]
  exact .of_eq rfl rfl rfl rfl rfl rfl

theorem step_keeps (h : step s = .next t) : s.Keeps t := by
  rcases step_cases s with ⟨_, hs⟩ | ⟨_, op, _, hs⟩ | ⟨_, i, u, _, hu, hs⟩ <;> cases hs.symm.trans h
  · exact .refl s
  · exact s.keeps_prepare.trans (.of_eq rfl rfl rfl rfl rfl rfl)
  · exact (s.keeps_prepare.trans (exec_keeps hu)).trans u.keeps_finish

/-- The reset table meets the invariant for every FONT and every depth (R24, R26). -/
theorem State.inv_resetWith (font : Font) (depth draws : Nat) : (State.resetWith font depth draws).Inv where
  index := by simp [State.resetWith]
  counter := by simp [State.resetWith]
  valid := by simp [State.resetWith]
  free := by simp [State.resetWith]
  memory := Memory.wf_reset depth draws

theorem State.stackDepth_resetWith (font : Font) (depth draws : Nat) :
    (State.resetWith font depth draws).stackDepth = depth := by
  simp [State.stackDepth, State.resetWith]

theorem State.keeps_hostReset (s : State) : s.Keeps s.hostReset where
  inv _ := State.inv_resetWith _ _ _
  depth := State.stackDepth_resetWith _ _ _
  font := rfl

theorem State.keeps_hostLoad (s : State) (bytes : List Byte) : s.Keeps (s.hostLoad bytes).2 := by
  unfold State.hostLoad
  split
  · exact s.keeps_storeBytes _ _
  · exact .refl s

theorem State.keeps_hostKeyEvent (s : State) (b : Byte) : s.Keeps (s.hostKeyEvent b).2 := by
  unfold State.hostKeyEvent
  split
  · exact s.keeps_setKey _ _
  · split <;> exact .refl s

theorem Transaction.apply_keeps (a : Transaction) (s : State) : s.Keeps (a.apply s) := by
  cases a with
  | reset => exact s.keeps_hostReset
  | load bytes => exact s.keeps_hostLoad bytes
  | keyEvent b => exact s.keeps_hostKeyEvent b
  | step =>
    obtain ⟨t, ht⟩ := step_next s
    simpa only [Transaction.apply, ht] using step_keeps ht

theorem runTransactions_keeps (ts : List Transaction) (s : State) : s.Keeps (runTransactions ts s) := by
  induction ts generalizing s with
  | nil => exact .refl s
  | cons a ts ih => exact (a.apply_keeps s).trans (ih _)

/-- Settles O49: a Step is phases that each keep the invariant. -/
theorem stepKeepsTheInvariant : Obligations.StepKeepsTheInvariant :=
  fun _ _ hi hs => (step_keeps hs).inv hi

/-- Settles O50, by induction over the transactions. -/
theorem transactionsKeepTheInvariant : Obligations.TransactionsKeepTheInvariant := by
  intro ts s hi
  obtain ⟨hinv, hdepth, hfont⟩ := runTransactions_keeps ts s
  exact ⟨hinv hi, hdepth, hfont⟩

/-- Settles O48: the defaults are one FONT and one depth of the reset table. -/
theorem resetMeetsTheInvariant : Obligations.ResetMeetsTheInvariant :=
  State.inv_resetWith _ _ _

end Sys2Proof.Machine

namespace Sys2Proof.Machine

/-! ### The reset table (R26) -/

variable (font : Font) (depth draws : Nat)

/-- At reset a byte is what no write has touched: FONT at 0..79 and 0 above. -/
theorem State.memRead_resetWith {a : Word} (h : a.toNat < 4096) :
    (State.resetWith font depth draws).memRead a = Memory.unlisted font a.toNat := by
  rw [State.memRead, mask12_of_lt h]
  rfl

/-- No entry is valid at reset, and all `depth` of them are 0. -/
theorem State.stackEntry_resetWith {k : Nat} (h : k < depth) :
    (State.resetWith font depth draws).stackEntry k = some 0#16 := by
  simp [State.stackEntry, State.resetWith, h]

/-- `State.resetWith` lays the whole reset table (R26). -/
theorem State.isReset_resetWith : IsReset font depth (State.resetWith font depth draws) where
  v r := by simp [State.getV, State.resetWith]
  i := rfl
  pc := rfl
  sp := rfl
  stackDepth := State.stackDepth_resetWith font depth draws
  entries _ hk := State.stackEntry_resetWith font depth draws hk
  dt := rfl
  st := rfl
  fontBytes a ha := by rw [State.memRead_resetWith font depth draws (by omega), Memory.unlisted_font ha]
  zeroBytes a ha ha' := by rw [State.memRead_resetWith font depth draws ha', Memory.unlisted_zero ha]
  fb k := by simp [State.fbAt, State.resetWith]
  du := rfl
  keys k := by simp [State.keyAt, State.resetWith]
  fault := ⟨rfl, rfl⟩
  diag := ⟨rfl, rfl⟩
  font := rfl

/-- Settles O56: Reset() and power-on are the reset table at their own parameters. -/
theorem resetTable : Obligations.ResetTable :=
  ⟨fun s => ⟨State.isReset_resetWith s.font s.stackDepth s.draws, rfl⟩,
    State.isReset_resetWith defaultFont defaultStackDepth 0⟩

end Sys2Proof.Machine

namespace Sys2Proof.Machine

variable {s t : State}

/-! ### ST and DIAG feed nothing (R16, R21, R167) -/

/-- The state with other contents of ST and DIAG, the two registers that no instruction reads. -/
def State.withUnread (s : State) (b : Byte) (v : Bool) (w : Word) : State :=
  { s with st := b, diagValid := v, diagOpcode := w }

/-- Whatever ST and DIAG hold, a run ends in the same state but for them, and each of their three fields ends with a
value that depends on its own content before alone. -/
def IgnoresUnread (run : State → Result) (s : State) : Prop :=
  ∃ (t : State) (f : Byte → Byte) (g : Bool → Bool) (k : Word → Word),
    ∀ b v w, run (s.withUnread b v w) = .next (t.withUnread (f b) (g v) (k w))

/-! ### The operations -/

section
variable (s : State) (b : Byte) (v : Bool) (w : Word)

@[simp] theorem State.getV_withUnread (r : Nibble) : (s.withUnread b v w).getV r = s.getV r := rfl

theorem State.skipIf_withUnread (cond : Bool) :
    (s.withUnread b v w).skipIf cond = (s.skipIf cond).withUnread b v w := by
  cases cond <;> rfl

theorem State.storeRegs_withUnread (n : Nat) :
    (s.withUnread b v w).storeRegs n = (s.storeRegs n).withUnread b v w := by
  induction n with
  | zero => rfl
  | succ k ih => rw [State.storeRegs, ih]; rfl

theorem State.loadRegs_withUnread (n : Nat) :
    (s.withUnread b v w).loadRegs n = (s.loadRegs n).withUnread b v w := by
  induction n with
  | zero => rfl
  | succ k ih => rw [State.loadRegs, ih]; rfl

theorem State.isKeyPressed_withUnread (c : Byte) :
    (s.withUnread b v w).isKeyPressed c = ((s.isKeyPressed c).1, (s.isKeyPressed c).2.withUnread b v w) := by
  have hkey : (s.withUnread b v w).keyAt (c.setWidth 4) = s.keyAt (c.setWidth 4) := rfl
  unfold State.isKeyPressed
  rw [hkey]
  split
  · rfl
  · split <;> rfl

theorem State.finish_withUnread : (s.withUnread b v w).finish = s.finish.withUnread b v w := by
  have hfault : (s.withUnread b v w).fault = s.fault := rfl
  unfold State.finish
  rw [hfault]
  split <;> rfl

end

/-! ### Phase 4 -/

theorem execRet_withUnread (h : execRet s = .next t) (b : Byte) (v : Bool) (w : Word) :
    execRet (s.withUnread b v w) = .next (t.withUnread b v w) := by
  have hstack : (s.withUnread b v w).stack = s.stack := rfl
  unfold execRet State.pop at h ⊢
  rw [hstack]
  cases hs : s.stack <;> (rw [hs] at h; cases h; rfl)

theorem execCallNnn_withUnread {nnn : Addr} (h : execCallNnn nnn s = .next t) (b : Byte) (v : Bool) (w : Word) :
    execCallNnn nnn (s.withUnread b v w) = .next (t.withUnread b v w) := by
  have hfree : (s.withUnread b v w).stackFree = s.stackFree := rfl
  unfold execCallNnn State.push at h ⊢
  rw [hfree]
  cases hs : s.stackFree <;> (rw [hs] at h; cases h; rfl)

theorem execLdVxK_withUnread {x : Nibble} (h : execLdVxK x s = .next t) (b : Byte) (v : Bool) (w : Word) :
    execLdVxK x (s.withUnread b v w) = .next (t.withUnread b v w) := by
  have hkey : (s.withUnread b v w).keyAt = s.keyAt := rfl
  unfold execLdVxK State.firstPressedKey at h ⊢
  rw [hkey]
  cases hk : keyNumbers.find? s.keyAt <;> (rw [hk] at h; cases h; rfl)

/-- What ST holds after an instruction that found `b` in it: FX18 overwrites it, every other one leaves it (R165). -/
def soundAfter (i : Instr) (s : State) (b : Byte) : Byte :=
  match i with
  | .ldStVx x => s.getV x
  | _ => b

/-- No instruction reads ST or DIAG, and ST is the one of them that phase 4 can write. -/
theorem exec_withUnread {i : Instr} (h : exec i s = .next t) (b : Byte) (v : Bool) (w : Word) :
    exec i (s.withUnread b v w) = .next (t.withUnread (soundAfter i s b) v w) := by
  cases i with
  | ret => exact execRet_withUnread h b v w
  | callNnn _ => exact execCallNnn_withUnread h b v w
  | ldVxK _ => exact execLdVxK_withUnread h b v w
  | seVxNn _ _ | sneVxNn _ _ | seVxVy _ _ | sneVxVy _ _ => cases h; exact congrArg _ (s.skipIf_withUnread b v w _)
  | skpVx _ | sknpVx _ =>
    cases h
    simp only [exec, execSkpVx, execSknpVx, State.getV_withUnread, State.isKeyPressed_withUnread,
      State.skipIf_withUnread]
    rfl
  | ldMemVx _ => cases h; simp only [exec, execLdMemVx, State.storeRegs_withUnread]; rfl
  | ldVxMem _ => cases h; simp only [exec, execLdVxMem, State.loadRegs_withUnread]; rfl
  | _ => cases h; rfl

/-! ### Steps and runs -/

/-- A Step of a halted core does nothing (R89). -/
theorem step_halted (h : s.fault ≠ .none) : step s = .next s := if_neg h

/-- In a Step ST counts down and may be overwritten, DIAG is cleared and may be set, and nothing else notices. -/
theorem step_ignoresUnread (s : State) : IgnoresUnread step s := by
  rcases step_cases s with ⟨hf, _⟩ | ⟨hf, op, hd, _⟩ | ⟨hf, i, t, hd, he, _⟩
  · exact ⟨s, id, id, id, fun b v w => step_halted hf⟩
  · exact ⟨s.prepare.clearKeys, countdown, fun _ => true, fun _ => op, fun b v w => step_unrecognised hf hd⟩
  · refine ⟨t.finish, fun b => soundAfter i s.prepare (countdown b), fun _ => false, id, fun b v w => ?_⟩
    have hexec := exec_withUnread he (countdown b) false w
    rw [step_instr (s := s.withUnread b v w) hf hd hexec, State.finish_withUnread]
    rfl

/-- The evolutions of ST and DIAG in the Steps of a run compose. -/
theorem core_run_ignoresUnread (n : Nat) (s : State) : IgnoresUnread (core.run n) s := by
  induction n generalizing s with
  | zero => exact ⟨s, id, id, id, fun _ _ _ => rfl⟩
  | succ n ih =>
    obtain ⟨t, f, g, k, hstep⟩ := step_ignoresUnread s
    obtain ⟨u, f', g', k', hrun⟩ := ih t
    exact ⟨u, f' ∘ f, g' ∘ g, k' ∘ k, fun b v w => (core_run_next (hstep b v w) n).trans (hrun _ _ _)⟩

/-- Settles O54: the run from other contents of ST differs in ST alone. -/
theorem soundTimerIsNeverRead : Obligations.SoundTimerIsNeverRead := by
  intro n s b
  obtain ⟨t, f, g, k, hrun⟩ := core_run_ignoresUnread n s
  exact ⟨t.withUnread (f s.st) (g s.diagValid) (k s.diagOpcode), f b,
    hrun s.st s.diagValid s.diagOpcode, hrun b s.diagValid s.diagOpcode⟩

/-- Settles O55: the run from other contents of DIAG differs in DIAG alone. -/
theorem diagnosticFeedsNothing : Obligations.DiagnosticFeedsNothing := by
  intro n s b w
  obtain ⟨t, f, g, k, hrun⟩ := core_run_ignoresUnread n s
  exact ⟨t.withUnread (f s.st) (g s.diagValid) (k s.diagOpcode), g b, k w,
    hrun s.st s.diagValid s.diagOpcode, hrun s.st b w⟩

end Sys2Proof.Machine

namespace Sys2Proof.Machine

variable {s t u : State}

/-! ### Memory as one storage (R42, R45, R50, R52) -/

/-- Settles O29: the accesses compare addresses by `mask12`, that is modulo 4096, and the read meets the store exactly
where the masked addresses agree. -/
theorem readReturnsLastWrite : Obligations.ReadReturnsLastWrite := by
  intro s a a' b
  constructor
  · intro h
    rw [State.memRead_memWrite, if_pos ((mask12_eq_iff a a').mpr h)]
  · intro h
    exact State.memRead_memWrite_other s b (mt (mask12_eq_iff a a').mp h)

@[simp] theorem State.dataAddr_zero (s : State) : s.dataAddr 0 = s.i := BitVec.add_zero s.i

/-- The word whose first byte `I` points at: the bytes at the first two data addresses (R45, R146). -/
theorem State.fetch_of_pc_eq_i (hpc : u.pc = s.i) :
    u.fetch = wordOfBytes (u.memRead (s.dataAddr 0)) (u.memRead (s.dataAddr 1)) := by
  rw [State.fetch, hpc, State.dataAddr_zero]
  rfl

/-- FX55 leaves V0 to VX at the data addresses (R144). -/
theorem memRead_exec_ldMemVx {x : Nibble} (h : exec (.ldMemVx x) s = .next t) {k : Nat} (hk : k ≤ x.toNat) :
    t.memRead (s.dataAddr k) = s.getV (regNumber k) := by
  cases h
  rw [State.memRead_setI]
  exact State.memRead_storeRegs_stored s x.isLt (Nat.lt_succ_of_le hk)

/-- Settles O30: the fetch reads the first two data addresses of the store, where FX55 put V0 and V1. -/
theorem storedWordIsFetched : Obligations.StoredWordIsFetched := by
  intro x s t u hx hexec hmem hpc
  rw [State.fetch_of_pc_eq_i hpc, hmem, hmem, memRead_exec_ldMemVx hexec (Nat.zero_le _),
    memRead_exec_ldMemVx hexec hx]
  rfl

end Sys2Proof.Machine

namespace Sys2Proof

open Laws Machine

variable {op : Word} {i j : Instr} {r : OpcodeRow}

/-! ### A word is the format of its fields: the fixed fields given by value (R61, R62) -/

theorem formatNNN_of_fields {t : Nibble} (hT : fieldT op = t) : formatNNN t (fieldNNN op) = op :=
  hT ▸ formatNNN_fields op

theorem formatXNN_of_fields {t : Nibble} (hT : fieldT op = t) : formatXNN t (fieldX op) (fieldNN op) = op :=
  hT ▸ formatXNN_fields op

theorem formatXYN_of_fields {t n : Nibble} (hT : fieldT op = t) (hN : fieldN op = n) :
    formatXYN t (fieldX op) (fieldY op) n = op :=
  hT ▸ hN ▸ formatXYN_fields op

theorem formatXFF_of_fields {t : Nibble} {f : Byte} (hT : fieldT op = t) (hNN : fieldNN op = f) :
    formatXFF t (fieldX op) f = op :=
  hT ▸ hNN ▸ formatXNN_fields op

/-! ### Decoding an encoding -/

/-- The fields of the encoding select the family, then the function code, then the operands (R64 to R69). -/
@[simp] theorem decode_encode (i : Instr) : decode (encode i) = .instr i := by
  cases i with
  | cls | ret => rfl
  | seVxVy x y => simp [encode, decode, decodeFamily5]
  | ldVxVy x y | orVxVy x y | andVxVy x y | xorVxVy x y | addVxVy x y | subVxVy x y | shrVxVy x y | subnVxVy x y
  | shlVxVy x y => simp [encode, decode, decodeFamily8]
  | sneVxVy x y => simp [encode, decode, decodeFamily9]
  | skpVx x | sknpVx x => simp [encode, decode, decodeFamilyE]
  | ldVxDt x | ldVxK x | ldDtVx x | ldStVx x | addIVx x | ldFVx x | ldBVx x | ldMemVx x | ldVxMem x =>
    simp [encode, decode, decodeFamilyF]
  | _ => simp [encode, decode]

theorem decode_of_encode (h : encode i = op) : decode op = .instr i :=
  h ▸ decode_encode i

/-- Two bytes and a rest are read as the word of the two bytes, the rest left over (R45, R60). -/
theorem decodeBytes_of_decode (h : decode op = .instr i) (rest : List Byte) :
    decodeBytes (bytesOfWord op ++ rest) = .ok (i, rest) := by
  simp [bytesOfWord, decodeBytes, h]

/-- Settles O1: the word by `decode_encode`, the bytes because they are the two bytes of that word. -/
theorem decodeInvertsEncode : Obligations.DecodeInvertsEncode :=
  fun i rest => ⟨decode_encode i, decodeBytes_of_decode (decode_encode i) rest⟩

/-! ### Encoding a decoding, family by family -/

theorem encode_of_decodeFamily0 (h : decodeFamily0 op = .instr i) : encode i = op := by
  unfold decodeFamily0 at h
  repeat' split at h
  all_goals cases h
  all_goals exact Eq.symm ‹_›

theorem encode_of_decodeFamily5 (hT : fieldT op = 5#4) (h : decodeFamily5 op = .instr i) : encode i = op := by
  unfold decodeFamily5 at h
  split at h <;> cases h
  exact formatXYN_of_fields hT ‹_›

theorem encode_of_decodeFamily8 (hT : fieldT op = 8#4) (h : decodeFamily8 op = .instr i) : encode i = op := by
  unfold decodeFamily8 at h
  split at h <;> cases h
  all_goals exact formatXYN_of_fields hT (BitVec.eq_of_toNat_eq ‹_›)

theorem encode_of_decodeFamily9 (hT : fieldT op = 9#4) (h : decodeFamily9 op = .instr i) : encode i = op := by
  unfold decodeFamily9 at h
  split at h <;> cases h
  exact formatXYN_of_fields hT ‹_›

theorem encode_of_decodeFamilyE (hT : fieldT op = 0xE#4) (h : decodeFamilyE op = .instr i) : encode i = op := by
  unfold decodeFamilyE at h
  repeat' split at h
  all_goals cases h
  all_goals exact formatXFF_of_fields hT ‹_›

theorem encode_of_decodeFamilyF (hT : fieldT op = 0xF#4) (h : decodeFamilyF op = .instr i) : encode i = op := by
  unfold decodeFamilyF at h
  repeat' split at h
  all_goals cases h
  all_goals exact formatXFF_of_fields hT ‹_›

/-- The decoder checks every fixed field and reads every operand field, so the format rebuilds the word (D22). -/
theorem encode_of_decode (h : decode op = .instr i) : encode i = op := by
  have hlt := (fieldT op).isLt
  unfold decode at h
  split at h
  case h_1 => exact encode_of_decodeFamily0 h
  case h_6 hT => exact encode_of_decodeFamily5 (BitVec.eq_of_toNat_eq hT) h
  case h_9 hT => exact encode_of_decodeFamily8 (BitVec.eq_of_toNat_eq hT) h
  case h_10 hT => exact encode_of_decodeFamily9 (BitVec.eq_of_toNat_eq hT) h
  case h_15 hT => exact encode_of_decodeFamilyE (BitVec.eq_of_toNat_eq hT) h
  case h_16 =>
    have hT : (fieldT op).toNat = 15 := by simp only [imp_false] at *; omega
    exact encode_of_decodeFamilyF (BitVec.eq_of_toNat_eq hT) h
  -- the families that the top nibble alone decides, by their format: DXYN, then NNN, then XNN
  case h_14 hT => cases h; exact formatXYN_of_fields (BitVec.eq_of_toNat_eq hT) rfl
  case h_2 hT | h_3 hT | h_11 hT | h_12 hT => cases h; exact formatNNN_of_fields (BitVec.eq_of_toNat_eq hT)
  all_goals cases h; exact formatXNN_of_fields (BitVec.eq_of_toNat_eq ‹_›)

theorem decode_eq_instr_iff : decode op = .instr i ↔ encode i = op :=
  ⟨encode_of_decode, decode_of_encode⟩

/-- Settles O2: the families of R64 one by one. -/
theorem encodeInvertsDecode : Obligations.EncodeInvertsDecode :=
  fun _ _ => decode_eq_instr_iff.mp

/-! ### The opcode map (R70) -/

/-- The encoding of an instruction has the fixed bits of its row. -/
theorem row_matches_encode (i : Instr) : i.row.matches (encode i) = true := by
  cases i with
  | cls => exact EncodingMatchesRow.cls
  | ret => exact EncodingMatchesRow.ret
  | jpNnn nnn => exact EncodingMatchesRow.jpNnn nnn
  | callNnn nnn => exact EncodingMatchesRow.callNnn nnn
  | seVxNn x nn => exact EncodingMatchesRow.seVxNn x nn
  | sneVxNn x nn => exact EncodingMatchesRow.sneVxNn x nn
  | seVxVy x y => exact EncodingMatchesRow.seVxVy x y
  | ldVxNn x nn => exact EncodingMatchesRow.ldVxNn x nn
  | addVxNn x nn => exact EncodingMatchesRow.addVxNn x nn
  | ldVxVy x y => exact EncodingMatchesRow.ldVxVy x y
  | orVxVy x y => exact EncodingMatchesRow.orVxVy x y
  | andVxVy x y => exact EncodingMatchesRow.andVxVy x y
  | xorVxVy x y => exact EncodingMatchesRow.xorVxVy x y
  | addVxVy x y => exact EncodingMatchesRow.addVxVy x y
  | subVxVy x y => exact EncodingMatchesRow.subVxVy x y
  | shrVxVy x y => exact EncodingMatchesRow.shrVxVy x y
  | subnVxVy x y => exact EncodingMatchesRow.subnVxVy x y
  | shlVxVy x y => exact EncodingMatchesRow.shlVxVy x y
  | sneVxVy x y => exact EncodingMatchesRow.sneVxVy x y
  | ldINnn nnn => exact EncodingMatchesRow.ldINnn nnn
  | jpV0Nnn nnn => exact EncodingMatchesRow.jpV0Nnn nnn
  | rndVxNn x nn => exact EncodingMatchesRow.rndVxNn x nn
  | drwVxVyN x y n => exact EncodingMatchesRow.drwVxVyN x y n
  | skpVx x => exact EncodingMatchesRow.skpVx x
  | sknpVx x => exact EncodingMatchesRow.sknpVx x
  | ldVxDt x => exact EncodingMatchesRow.ldVxDt x
  | ldVxK x => exact EncodingMatchesRow.ldVxK x
  | ldDtVx x => exact EncodingMatchesRow.ldDtVx x
  | ldStVx x => exact EncodingMatchesRow.ldStVx x
  | addIVx x => exact EncodingMatchesRow.addIVx x
  | ldFVx x => exact EncodingMatchesRow.ldFVx x
  | ldBVx x => exact EncodingMatchesRow.ldBVx x
  | ldMemVx x => exact EncodingMatchesRow.ldMemVx x
  | ldVxMem x => exact EncodingMatchesRow.ldVxMem x

section FixedFields

variable {p : String} {mask bits : Word} {t : Nibble}

theorem and_mask_of_matches (h : (OpcodeRow.mk p mask bits).matches op = true) : op &&& mask = bits :=
  eq_of_beq h

theorem eq_of_matches (h : (OpcodeRow.mk p (BitVec.allOnes 16) bits).matches op = true) : bits = op :=
  (and_mask_of_matches h).symm.trans BitVec.and_allOnes

/-- A field that the mask covers whole has the value the row fixes. -/
theorem extractLsb'_of_matches (h : (OpcodeRow.mk p mask bits).matches op = true) (start len : Nat)
    (hm : mask.extractLsb' start len = BitVec.allOnes len) :
    op.extractLsb' start len = bits.extractLsb' start len := by
  rw [← and_mask_of_matches h, BitVec.extractLsb'_and, hm, BitVec.and_allOnes]

/-! The masks of R70: 0xF000 fixes `T`; 0xF00F also the function nibble, 0xF0FF also the function byte (R62). -/

theorem formatNNN_of_matches (h : (OpcodeRow.mk p 0xF000#16 bits).matches op = true)
    (hT : fieldT bits = t := by rfl) : formatNNN t (fieldNNN op) = op :=
  formatNNN_of_fields ((extractLsb'_of_matches h 12 4 rfl).trans hT)

theorem formatXNN_of_matches (h : (OpcodeRow.mk p 0xF000#16 bits).matches op = true)
    (hT : fieldT bits = t := by rfl) : formatXNN t (fieldX op) (fieldNN op) = op :=
  formatXNN_of_fields ((extractLsb'_of_matches h 12 4 rfl).trans hT)

theorem formatXYN_of_matches (h : (OpcodeRow.mk p 0xF000#16 bits).matches op = true)
    (hT : fieldT bits = t := by rfl) : formatXYN t (fieldX op) (fieldY op) (fieldN op) = op :=
  formatXYN_of_fields ((extractLsb'_of_matches h 12 4 rfl).trans hT) rfl

theorem formatXYF_of_matches {n : Nibble} (h : (OpcodeRow.mk p 0xF00F#16 bits).matches op = true)
    (hT : fieldT bits = t := by rfl) (hN : fieldN bits = n := by rfl) :
    formatXYN t (fieldX op) (fieldY op) n = op :=
  formatXYN_of_fields ((extractLsb'_of_matches h 12 4 rfl).trans hT) ((extractLsb'_of_matches h 0 4 rfl).trans hN)

theorem formatXFF_of_matches {f : Byte} (h : (OpcodeRow.mk p 0xF0FF#16 bits).matches op = true)
    (hT : fieldT bits = t := by rfl) (hNN : fieldNN bits = f := by rfl) : formatXFF t (fieldX op) f = op :=
  formatXFF_of_fields ((extractLsb'_of_matches h 12 4 rfl).trans hT) ((extractLsb'_of_matches h 0 8 rfl).trans hNN)

end FixedFields

/-- A word that fits an instruction's row encodes an instruction of that row, the one whose operands are the fields of the
word that the mask leaves free. -/
theorem exists_encode_of_row_matches (h : i.row.matches op = true) : ∃ j : Instr, j.row = i.row ∧ encode j = op := by
  cases i with
  | cls => exact ⟨.cls, rfl, eq_of_matches h⟩
  | ret => exact ⟨.ret, rfl, eq_of_matches h⟩
  | jpNnn _ => exact ⟨.jpNnn (fieldNNN op), rfl, formatNNN_of_matches h⟩
  | callNnn _ => exact ⟨.callNnn (fieldNNN op), rfl, formatNNN_of_matches h⟩
  | seVxNn _ _ => exact ⟨.seVxNn (fieldX op) (fieldNN op), rfl, formatXNN_of_matches h⟩
  | sneVxNn _ _ => exact ⟨.sneVxNn (fieldX op) (fieldNN op), rfl, formatXNN_of_matches h⟩
  | seVxVy _ _ => exact ⟨.seVxVy (fieldX op) (fieldY op), rfl, formatXYF_of_matches h⟩
  | ldVxNn _ _ => exact ⟨.ldVxNn (fieldX op) (fieldNN op), rfl, formatXNN_of_matches h⟩
  | addVxNn _ _ => exact ⟨.addVxNn (fieldX op) (fieldNN op), rfl, formatXNN_of_matches h⟩
  | ldVxVy _ _ => exact ⟨.ldVxVy (fieldX op) (fieldY op), rfl, formatXYF_of_matches h⟩
  | orVxVy _ _ => exact ⟨.orVxVy (fieldX op) (fieldY op), rfl, formatXYF_of_matches h⟩
  | andVxVy _ _ => exact ⟨.andVxVy (fieldX op) (fieldY op), rfl, formatXYF_of_matches h⟩
  | xorVxVy _ _ => exact ⟨.xorVxVy (fieldX op) (fieldY op), rfl, formatXYF_of_matches h⟩
  | addVxVy _ _ => exact ⟨.addVxVy (fieldX op) (fieldY op), rfl, formatXYF_of_matches h⟩
  | subVxVy _ _ => exact ⟨.subVxVy (fieldX op) (fieldY op), rfl, formatXYF_of_matches h⟩
  | shrVxVy _ _ => exact ⟨.shrVxVy (fieldX op) (fieldY op), rfl, formatXYF_of_matches h⟩
  | subnVxVy _ _ => exact ⟨.subnVxVy (fieldX op) (fieldY op), rfl, formatXYF_of_matches h⟩
  | shlVxVy _ _ => exact ⟨.shlVxVy (fieldX op) (fieldY op), rfl, formatXYF_of_matches h⟩
  | sneVxVy _ _ => exact ⟨.sneVxVy (fieldX op) (fieldY op), rfl, formatXYF_of_matches h⟩
  | ldINnn _ => exact ⟨.ldINnn (fieldNNN op), rfl, formatNNN_of_matches h⟩
  | jpV0Nnn _ => exact ⟨.jpV0Nnn (fieldNNN op), rfl, formatNNN_of_matches h⟩
  | rndVxNn _ _ => exact ⟨.rndVxNn (fieldX op) (fieldNN op), rfl, formatXNN_of_matches h⟩
  | drwVxVyN _ _ _ => exact ⟨.drwVxVyN (fieldX op) (fieldY op) (fieldN op), rfl, formatXYN_of_matches h⟩
  | skpVx _ => exact ⟨.skpVx (fieldX op), rfl, formatXFF_of_matches h⟩
  | sknpVx _ => exact ⟨.sknpVx (fieldX op), rfl, formatXFF_of_matches h⟩
  | ldVxDt _ => exact ⟨.ldVxDt (fieldX op), rfl, formatXFF_of_matches h⟩
  | ldVxK _ => exact ⟨.ldVxK (fieldX op), rfl, formatXFF_of_matches h⟩
  | ldDtVx _ => exact ⟨.ldDtVx (fieldX op), rfl, formatXFF_of_matches h⟩
  | ldStVx _ => exact ⟨.ldStVx (fieldX op), rfl, formatXFF_of_matches h⟩
  | addIVx _ => exact ⟨.addIVx (fieldX op), rfl, formatXFF_of_matches h⟩
  | ldFVx _ => exact ⟨.ldFVx (fieldX op), rfl, formatXFF_of_matches h⟩
  | ldBVx _ => exact ⟨.ldBVx (fieldX op), rfl, formatXFF_of_matches h⟩
  | ldMemVx _ => exact ⟨.ldMemVx (fieldX op), rfl, formatXFF_of_matches h⟩
  | ldVxMem _ => exact ⟨.ldVxMem (fieldX op), rfl, formatXFF_of_matches h⟩

/-- The rows of the map are the rows of the instructions. -/
theorem exists_row_of_mem (hr : r ∈ opcodeRows) : ∃ i : Instr, i.row = r := by
  obtain ⟨i, _, hi⟩ := List.mem_map.mp hr
  exact ⟨i, hi⟩

/-- A word that fits a row of the map decodes to an instruction of that row. -/
theorem exists_decode_of_matches (hr : r ∈ opcodeRows) (h : r.matches op = true) :
    ∃ i : Instr, i.row = r ∧ decode op = .instr i := by
  obtain ⟨i, rfl⟩ := exists_row_of_mem hr
  obtain ⟨j, hj, hop⟩ := exists_encode_of_row_matches h
  exact ⟨j, hj, decode_of_encode hop⟩

/-- Settles O3: a word has at most one decoding, so it fits no row but that of its instruction, and an unrecognised word
fits none. -/
theorem decoderFollowsOpcodeMap : Obligations.DecoderFollowsOpcodeMap := by
  intro op
  constructor
  · intro i hi
    constructor
    · rw [← encode_of_decode hi]
      exact row_matches_encode i
    · intro r hr hmatch
      obtain ⟨j, rfl, hj⟩ := exists_decode_of_matches hr hmatch
      cases hi.symm.trans hj
      rfl
  · intro w hw
    refine ⟨decode_unrecognised hw, fun r hr => Bool.eq_false_iff.mpr fun hmatch => ?_⟩
    obtain ⟨j, -, hj⟩ := exists_decode_of_matches hr hmatch
    cases hw.symm.trans hj

/-! ### The unrecognised words (R71), family by family -/

theorem decodeFamily0_eq_unrecognised_iff :
    decodeFamily0 op = .unrecognised op ↔ op ≠ 0x00E0#16 ∧ op ≠ 0x00EE#16 := by
  unfold decodeFamily0
  repeat' split
  all_goals simp [*]

theorem decodeFamily5_eq_unrecognised_iff : decodeFamily5 op = .unrecognised op ↔ fieldN op ≠ 0#4 := by
  unfold decodeFamily5
  split <;> simp [*]

theorem decodeFamily8_eq_unrecognised_iff : decodeFamily8 op = .unrecognised op ↔
    fieldN op ∈ [0x8#4, 0x9#4, 0xA#4, 0xB#4, 0xC#4, 0xD#4, 0xF#4] := by
  have hlt := (fieldN op).isLt
  unfold decodeFamily8
  simp only [List.mem_cons, List.not_mem_nil, ← BitVec.toNat_inj]
  split
  case h_10 => simp only [imp_false, true_iff, BitVec.toNat_ofNat] at *; omega
  all_goals simp [*]

theorem decodeFamily9_eq_unrecognised_iff : decodeFamily9 op = .unrecognised op ↔ fieldN op ≠ 0#4 := by
  unfold decodeFamily9
  split <;> simp [*]

theorem decodeFamilyE_eq_unrecognised_iff :
    decodeFamilyE op = .unrecognised op ↔ fieldNN op ∉ [0x9E#8, 0xA1#8] := by
  unfold decodeFamilyE
  repeat' split
  all_goals simp [*]

theorem decodeFamilyF_eq_unrecognised_iff : decodeFamilyF op = .unrecognised op ↔
    fieldNN op ∉ [0x07#8, 0x0A#8, 0x15#8, 0x18#8, 0x1E#8, 0x29#8, 0x33#8, 0x55#8, 0x65#8] := by
  unfold decodeFamilyF
  repeat' split
  all_goals simp [*]

/-- Settles O4: the family of the word, and in it the words its sub-dispatch leaves over. -/
theorem unrecognisedWordsAreTheSixGroups : Obligations.UnrecognisedWordsAreTheSixGroups := by
  intro op
  have hlt := (fieldT op).isLt
  rw [decode]
  simp only [← BitVec.toNat_inj (x := fieldT op)]
  split
  case h_1 hT => simp [hT, decodeFamily0_eq_unrecognised_iff]
  case h_6 hT => simp [hT, decodeFamily5_eq_unrecognised_iff]
  case h_9 hT => simp [hT, decodeFamily8_eq_unrecognised_iff]
  case h_10 hT => simp [hT, decodeFamily9_eq_unrecognised_iff]
  case h_15 hT => simp [hT, decodeFamilyE_eq_unrecognised_iff]
  case h_16 =>
    have hT : (fieldT op).toNat = 15 := by simp only [imp_false] at *; omega
    simp [hT, decodeFamilyF_eq_unrecognised_iff]
  all_goals simp [*]

/-- Settles O5: the decoder evaluated on the ten words. -/
theorem sampleWordsDecode : Obligations.SampleWordsDecode := by
  unfold Obligations.SampleWordsDecode
  decide

end Sys2Proof

namespace Sys2Proof.Machine

variable {s t u : State} {d d' : List Nibble} {p p' : List Part}

/-! ### The frame of phase 4 -/

/-- What two changes in a row may touch together. -/
theorem Frame.seq (h : Frame d p s t) (h' : Frame d' p' t u) : Frame (d ++ d') (p ++ p') s u :=
  (h.mono (by simp) (by simp)).trans (h'.mono (by simp) (by simp))

theorem frame_isKeyPressed (s : State) (c : Byte) : Frame [] [.keys] s (s.isKeyPressed c).2 := by
  rcases s.isKeyPressed_cases c with ⟨_, h⟩ | ⟨_, _, h⟩ | ⟨_, _, h⟩ <;> rw [h]
  · exact .refl _ _ s
  · exact .refl _ _ s
  · exact frame_setKey s _ _

theorem execRet_frame (h : execRet s = .next t) : Frame [] [.pc, .stack, .fault] s t := by
  rcases execRet_cases s with ⟨_, hr⟩ | ⟨_, _, _, hr⟩ <;> cases hr.symm.trans h
  · exact (frame_raise s _).mono (by simp) (by simp)
  · exact (frame_pcStack s _ _ _).mono (by simp) (by simp)

theorem execCallNnn_frame {nnn : Addr} (h : execCallNnn nnn s = .next t) : Frame [] [.pc, .stack, .fault] s t := by
  rcases execCallNnn_cases nnn s with ⟨_, hr⟩ | ⟨_, _, _, _, hr⟩ <;> cases hr.symm.trans h
  · exact (frame_raise s _).mono (by simp) (by simp)
  · exact (frame_pcStack s _ _ _).mono (by simp) (by simp)

theorem execLdVxK_frame {x : Nibble} (h : execLdVxK x s = .next t) : Frame [x] [.pc, .keys] s t := by
  rcases execLdVxK_cases x s with ⟨_, hr⟩ | ⟨k, _, _, hr⟩ <;> cases hr.symm.trans h
  · exact (frame_setPc s _).mono (by simp) (by simp)
  · exact ((frame_setKey s k false).seq (frame_setV _ x _)).mono (by simp) (by simp)

/-- Phase 4 writes the destinations and the touched parts of its instruction and nothing else (R86). -/
theorem exec_frame {i : Instr} (h : exec i s = .next t) : Frame (destinations i) (touchedParts i) s t := by
  cases i with
  | ret => exact execRet_frame h
  | callNnn _ => exact execCallNnn_frame h
  | ldVxK _ => exact execLdVxK_frame h
  | cls => cases h; exact frame_setDisplay s _
  | jpNnn _ | jpV0Nnn _ => cases h; exact frame_setPc s _
  | seVxNn _ _ | sneVxNn _ _ | seVxVy _ _ | sneVxVy _ _ => cases h; exact frame_skipIf s _
  | skpVx _ | sknpVx _ =>
    cases h
    exact ((frame_isKeyPressed s _).seq (frame_skipIf _ _)).mono (by simp) (by simp [touchedParts])
  | ldVxNn x _ | addVxNn x _ | ldVxVy x _ | orVxVy x _ | andVxVy x _ | xorVxVy x _ | ldVxDt x =>
    cases h
    exact frame_setV s x _
  | addVxVy x _ | subVxVy x _ | subnVxVy x _ =>
    cases h
    exact ((frame_setV s vF _).seq (frame_setV _ x _)).mono (by simp [destinations]) (by simp)
  | shrVxVy x y | shlVxVy x y =>
    cases h
    exact (((frame_setV s vF _).seq (frame_setV _ y _)).seq (frame_setV _ x _)).mono (by simp [destinations]) (by simp)
  | rndVxNn x _ => cases h; exact (frame_draws s _).seq (frame_setV _ x _)
  | drwVxVyN _ _ _ => cases h; exact (frame_setV s vF _).seq (frame_setDisplay _ _)
  | ldINnn _ | addIVx _ | ldFVx _ => cases h; exact frame_setI s _
  | ldBVx _ => cases h; exact ((frame_mem s _).trans (frame_mem _ _)).trans (frame_mem _ _)
  | ldMemVx _ => cases h; exact (frame_storeRegs s _).seq (frame_setI _ _)
  | ldVxMem x =>
    cases h
    exact ((frame_loadRegs s x.isLt).seq (frame_setI _ _)).mono (by simp [destinations]) (by simp [touchedParts])
  | ldDtVx _ => cases h; exact frame_setDt s _
  | ldStVx _ => cases h; exact frame_setSt s _

/-- FX15 alone may write the delay timer (R164). -/
theorem dt_mem_touchedParts {i : Instr} : .dt ∈ touchedParts i ↔ ∃ x, i = .ldDtVx x := by
  cases i <;> simp [touchedParts]

/-- FX18 alone may write the sound timer (R165). -/
theorem st_mem_touchedParts {i : Instr} : .st ∈ touchedParts i ↔ ∃ x, i = .ldStVx x := by
  cases i <;> simp [touchedParts]

/-! ### The frame of phases 4 and 5 -/

/-- What phases 4 and 5 may change of the state after phases 1 to 3, when the word is an instruction. -/
theorem step_instr_frame {i : Instr} (hf : s.fault = .none) (hd : decode s.fetch = .instr i) (hs : step s = .next t) :
    Frame (destinations i) (touchedParts i ++ [.keys]) s.prepare t := by
  obtain ⟨u, hu⟩ := exec_next i s.prepare
  cases (step_instr hf hd hu).symm.trans hs
  exact ((exec_frame hu).seq (frame_finish u)).mono (by simp) (by simp)

/-- What phases 4 and 5 may change of the state after phases 1 to 3, when the word is unrecognised (R87, R88). -/
theorem step_unrecognised_frame {op : Word} (hf : s.fault = .none) (hd : decode s.fetch = .unrecognised op)
    (hs : step s = .next t) : Frame [] [.diag, .keys] s.prepare t := by
  cases (step_unrecognised hf hd).symm.trans hs
  exact (frame_reportUnrecognised _ op).seq (frame_clearKeys _)

/-! ### Timers (R85) -/

theorem countdown_toNat_eq_ite (b : Byte) : (countdown b).toNat = if b.toNat > 0 then b.toNat - 1 else 0 := by
  rw [countdown_toNat]
  split <;> omega

/-- A Step without FX15 leaves the delay timer counted down. -/
theorem step_dt (hf : s.fault = .none) (hs : step s = .next t) (hn : ∀ x, decode s.fetch ≠ .instr (.ldDtVx x)) :
    t.dt = countdown s.dt := by
  cases hd : decode s.fetch with
  | unrecognised op => exact (step_unrecognised_frame hf hd hs).dt (by simp)
  | instr i =>
    refine (step_instr_frame hf hd hs).dt fun hmem => ?_
    obtain ⟨x, rfl⟩ := dt_mem_touchedParts.mp (by simpa using hmem)
    exact hn x hd

/-- A Step without FX18 leaves the sound timer counted down. -/
theorem step_st (hf : s.fault = .none) (hs : step s = .next t) (hn : ∀ x, decode s.fetch ≠ .instr (.ldStVx x)) :
    t.st = countdown s.st := by
  cases hd : decode s.fetch with
  | unrecognised op => exact (step_unrecognised_frame hf hd hs).st (by simp)
  | instr i =>
    refine (step_instr_frame hf hd hs).st fun hmem => ?_
    obtain ⟨x, rfl⟩ := st_mem_touchedParts.mp (by simpa using hmem)
    exact hn x hd

/-- The delay timer after a Step that executes FX15. -/
theorem step_ldDtVx_dt {x : Nibble} (hf : s.fault = .none) (hs : step s = .next t)
    (hd : decode s.fetch = .instr (.ldDtVx x)) : t.dt = s.getV x := by
  cases (step_instr hf hd rfl).symm.trans hs
  exact (frame_finish _).dt (by simp)

/-- The sound timer after a Step that executes FX18. -/
theorem step_ldStVx_st {x : Nibble} (hf : s.fault = .none) (hs : step s = .next t)
    (hd : decode s.fetch = .instr (.ldStVx x)) : t.st = s.getV x := by
  cases (step_instr hf hd rfl).symm.trans hs
  exact (frame_finish _).st (by simp)

/-- The register after a Step that executes FX07. -/
theorem step_ldVxDt_getV {x : Nibble} (hf : s.fault = .none) (hs : step s = .next t)
    (hd : decode s.fetch = .instr (.ldVxDt x)) : t.getV x = countdown s.dt := by
  cases (step_instr hf hd rfl).symm.trans hs
  exact ((frame_finish _).regs x (by simp)).trans (State.getV_setV_same _ x _)

/-- Load writes memory alone (R202). -/
theorem frame_hostLoad (s : State) (bytes : List Byte) : Frame [] [.mem] s (s.hostLoad bytes).2 := by
  unfold State.hostLoad
  split
  · exact frame_storeBytes s _ _
  · exact .refl _ _ s

/-- KeyEvent writes the key flags alone (R187). -/
theorem frame_hostKeyEvent (s : State) (b : Byte) : Frame [] [.keys] s (s.hostKeyEvent b).2 := by
  unfold State.hostKeyEvent
  split
  · exact frame_setKey s _ _
  · split <;> exact .refl _ _ s

/-- Settles O40: phase 3 counts both timers, and what runs beside and after it has no timer in its frame but for FX15
and FX18. -/
theorem timersCountEachStep : Obligations.TimersCountEachStep := by
  refine ⟨fun s bytes => ?_, fun s b => ?_, fun s t hf hs => ⟨fun hn => ?_, fun hn => ?_, fun x hd => ?_, fun x hd => ?_,
    fun x hd => ?_⟩⟩
  · exact ⟨(frame_hostLoad s bytes).dt (by simp), (frame_hostLoad s bytes).st (by simp)⟩
  · exact ⟨(frame_hostKeyEvent s b).dt (by simp), (frame_hostKeyEvent s b).st (by simp)⟩
  · rw [step_dt hf hs hn, countdown_toNat_eq_ite]
  · rw [step_st hf hs hn, countdown_toNat_eq_ite]
  · exact step_ldDtVx_dt hf hs hd
  · exact step_ldStVx_st hf hs hd
  · rw [step_ldVxDt_getV hf hs hd, countdown_toNat_eq_ite]

/-! ### Fetch (R82) -/

theorem wordOfBytes_toNat (hi lo : Byte) : (wordOfBytes hi lo).toNat = 256 * hi.toNat + lo.toNat := by
  rw [wordOfBytes, BitVec.toNat_append, ← Nat.shiftLeft_add_eq_or_of_lt lo.isLt, Nat.shiftLeft_eq, Nat.mul_comm]

/-- A byte read, by the number of its address modulo 4096 (R42). -/
theorem State.memRead_eq (s : State) (a : Word) : s.memRead a = Memory.read s.font s.mem (a.toNat % 4096) := by
  rw [State.memRead, mask12_toNat]

/-- Settles O42: the fetched word is its two bytes, and PC + 1 in 16 bits is PC + 1 modulo 4096 after the mask. -/
theorem fetchIsBigEndian : Obligations.FetchIsBigEndian := by
  intro s
  have hnext : (s.pc + 1#16).toNat % 4096 = (s.pc.toNat + 1) % 4096 := by
    rw [BitVec.toNat_add, BitVec.toNat_ofNat]
    omega
  rw [State.fetch, wordOfBytes_toNat, State.memRead_eq, State.memRead_eq, hnext]

/-! ### The Step as a whole (R81 to R91) -/

/-- Settles O22, by induction over the Steps: each leaves the same halted state. -/
theorem haltedCoreNeverChanges : Obligations.HaltedCoreNeverChanges := by
  intro s n hf
  induction n with
  | zero => rfl
  | succ n ih => rw [core_run_next (step_halted hf), ih]

/-- Settles O45: the run by induction over its Steps. -/
theorem everyStepCompletes : Obligations.EveryStepCompletes := by
  refine ⟨step_next, exec_next, fun n s => ?_⟩
  induction n generalizing s with
  | zero => exact ⟨s, rfl⟩
  | succ n ih =>
    obtain ⟨t, ht⟩ := step_next s
    rw [core_run_next ht]
    exact ih t

/-- Settles O38: a Step that is not void ends in phase 5, which leaves FAULT as phase 4 left it. -/
theorem keyFlagsClearedByStep : Obligations.KeyFlagsClearedByStep := by
  intro s t hf hs ht k
  rcases step_cases s with ⟨hhalt, _⟩ | ⟨_, op, _, hs'⟩ | ⟨_, i, u, _, _, hs'⟩
  · exact absurd hf hhalt
  · cases hs'.symm.trans hs
    exact State.keyAt_clearKeys _ k
  · cases hs'.symm.trans hs
    have hu : u.finish.fault = u.fault := (frame_finish u).fault (by simp)
    exact State.finish_keyAt (hu.symm.trans ht) k

/-- Settles O44: the state that `step_unrecognised` gives, piece by piece. -/
theorem unrecognisedWordIsNoOp : Obligations.UnrecognisedWordIsNoOp := by
  intro s hf hd
  have hs := step_unrecognised hf hd
  exact ⟨_, hs, rfl, rfl, mask12_add_two_toNat s.pc, countdown_toNat s.dt, countdown_toNat s.st, rfl,
    State.keyAt_clearKeys _, ((frame_prepare s).seq (step_unrecognised_frame hf hd hs)).mono (by simp) (by simp)⟩

/-- Settles O43: the premises say field by field that `p` is the state after phases 1 to 3. -/
theorem stepRunsDecodedInstruction : Obligations.StepRunsDecodedInstruction := by
  intro s p t i hf hd hpc hdu hvalid hopcode hdt hst hv hi hstack hfree hmem hfb hkey hfault hdraws hfont he
  have hpc' : p.pc = mask12 (s.pc + 2#16) := BitVec.eq_of_toNat_eq (hpc.trans (mask12_add_two_toNat s.pc).symm)
  have hdt' : p.dt = countdown s.dt := BitVec.eq_of_toNat_eq (hdt.trans (countdown_toNat s.dt).symm)
  have hst' : p.st = countdown s.st := BitVec.eq_of_toNat_eq (hst.trans (countdown_toNat s.st).symm)
  have hp : p = s.prepare := by
    cases p
    simp_all [State.prepare_eq]
  have hs : step s = .next t.finish := step_instr hf hd (hp ▸ he)
  rw [hs]
  rcases t.finish_cases with ⟨ht, hfin⟩ | ⟨ht, hfin⟩ <;> rw [hfin]
  · exact ⟨fun _ => rfl, fun hn => absurd ht hn⟩
  · exact ⟨fun hn => absurd hn ht, fun _ => rfl⟩

end Sys2Proof.Machine

namespace Sys2Proof.Machine

variable {s t u : State}

/-! ### Jumps and skips in phase 4 (R90, R101, R103 to R107) -/

/-- The target of BNNN: modulo 4096 (R107). -/
theorem mask12_addrOperand_add_toNat (nnn : Addr) (b : Byte) :
    (mask12 (addrOperand nnn + wideOperand b)).toNat = (nnn.toNat + b.toNat) % 4096 := by
  have := nnn.isLt
  have := b.isLt
  rw [mask12_toNat, addrOperand, wideOperand, BitVec.toNat_add, BitVec.toNat_setWidth, BitVec.toNat_setWidth]
  omega

theorem State.skipIf_pc_of_true {cond : Bool} (s : State) (h : cond = true) :
    (s.skipIf cond).pc.toNat = (s.pc.toNat + 2) % 4096 :=
  h ▸ mask12_add_two_toNat s.pc

theorem State.skipIf_pc_of_false {cond : Bool} (s : State) (h : cond = false) : (s.skipIf cond).pc = s.pc :=
  h ▸ rfl

/-- Settles O15: the encodings from the fixed fields, the skips from the two cases of `State.skipIf`. -/
theorem conditionalSkips : Obligations.ConditionalSkips := by
  refine ⟨fun op hT => ?_, fun op hT => ?_, fun op hT hN => ?_, fun op hT hN => ?_, fun x nn s => ?_, fun x nn s => ?_,
    fun x y s => ?_, fun x y s => ?_⟩
  · exact decode_of_encode (formatXNN_of_fields hT)
  · exact decode_of_encode (formatXNN_of_fields hT)
  · exact decode_of_encode (formatXYN_of_fields hT hN)
  · exact decode_of_encode (formatXYN_of_fields hT hN)
  · exact ⟨_, rfl, frame_skipIf s _, fun h => s.skipIf_pc_of_true (beq_iff_eq.mpr h),
      fun h => s.skipIf_pc_of_false (beq_eq_false_iff_ne.mpr h)⟩
  · exact ⟨_, rfl, frame_skipIf s _, fun h => s.skipIf_pc_of_true (bne_iff_ne.mpr h),
      fun h => s.skipIf_pc_of_false (bne_eq_false_iff_eq.mpr h)⟩
  · exact ⟨_, rfl, frame_skipIf s _, fun h => s.skipIf_pc_of_true (beq_iff_eq.mpr h),
      fun h => s.skipIf_pc_of_false (beq_eq_false_iff_ne.mpr h)⟩
  · exact ⟨_, rfl, frame_skipIf s _, fun h => s.skipIf_pc_of_true (bne_iff_ne.mpr h),
      fun h => s.skipIf_pc_of_false (bne_eq_false_iff_eq.mpr h)⟩

/-- Settles O16: a jump is one write of PC, which masks the target. -/
theorem jumpTargets : Obligations.JumpTargets := by
  refine ⟨fun op hT => ?_, fun op hT => ?_, fun nnn s => ?_, fun nnn s => ?_⟩
  · exact decode_of_encode (formatNNN_of_fields hT)
  · exact decode_of_encode (formatNNN_of_fields hT)
  · exact ⟨_, rfl, mask12_addrOperand_toNat nnn, frame_setPc s _⟩
  · exact ⟨_, rfl, mask12_addrOperand_add_toNat nnn (s.getV 0#4), frame_setPc s _⟩

/-! ### The call stack entry by entry (R14) -/

/-- A valid entry in place of the first free one: the entry at SP is the new one, every other entry stays. -/
theorem State.stackEntry_of_pushed {w e : Word} {rest : List Word} (hfree : s.stackFree = e :: rest)
    (ht : t.stack = w :: s.stack) (htfree : t.stackFree = rest) (k : Nat) :
    t.stackEntry k = if k = s.sp then some w else s.stackEntry k := by
  have hset : t.stack.reverse ++ t.stackFree = (s.stack.reverse ++ s.stackFree).set s.sp w := by
    simp [ht, htfree, hfree, State.sp, List.set_append_right]
  have hsp : s.sp < (s.stack.reverse ++ s.stackFree).length := by
    simp [State.sp, hfree]
  rw [State.stackEntry, hset, List.getElem?_set, if_pos hsp, State.stackEntry]
  simp only [eq_comm]

/-- The last valid entry made the first free one: every entry stays where it was. -/
theorem State.stackEntry_of_popped {w : Word} {rest : List Word} (hs : s.stack = w :: rest) (ht : t.stack = rest)
    (htfree : t.stackFree = w :: s.stackFree) (k : Nat) : t.stackEntry k = s.stackEntry k := by
  simp [State.stackEntry, hs, ht, htfree]

/-- Settles O17: of the two outcomes of 2NNN, room on the stack leaves the push. -/
theorem callPushesReturnAddress : Obligations.CallPushesReturnAddress := by
  intro nnn s hroom
  rcases execCallNnn_cases nnn s with ⟨hfull, _⟩ | ⟨_, e, rest, hfree, hexec⟩
  · exact absurd hfull hroom.ne
  · exact ⟨_, hexec, mask12_addrOperand_toNat nnn, rfl, rfl,
      Eq.trans (State.stackEntry_of_pushed hfree rfl rfl s.sp) (if_pos rfl),
      fun k hk => Eq.trans (State.stackEntry_of_pushed hfree rfl rfl k) (if_neg hk), frame_pcStack s _ _ _⟩

/-- Settles O18: of the two outcomes of 00EE, an entry on the stack leaves the pop. -/
theorem returnPopsIntoCounter : Obligations.ReturnPopsIntoCounter := by
  intro s w rest hs
  rcases execRet_cases s with ⟨hempty, _⟩ | ⟨w', rest', hs', hexec⟩
  · simp [State.sp, hs] at hempty
  · cases hs.symm.trans hs'
    exact ⟨_, hexec, mask12_toNat w, rfl, by simp [State.sp, hs], State.stackEntry_of_popped hs rfl rfl,
      frame_pcStack s _ _ _⟩

/-- Settles O19: the call leaves PC on top of the caller's stack (O17), and the return pops it (O18). -/
theorem returnUndoesCall : Obligations.ReturnUndoesCall := by
  intro nnn s t u hroom hcall hu
  obtain ⟨t', hcall', _, hstack, _⟩ := callPushesReturnAddress nnn s hroom
  cases hcall'.symm.trans hcall
  obtain ⟨w, hret, hpc, hrest, _⟩ := returnPopsIntoCounter u s.pc s.stack (hu.trans hstack)
  exact ⟨w, hret, hrest, hpc⟩

/-! ### PC after a Step (R109) -/

/-- PC after a Step is what phase 4 left in it. -/
theorem step_instr_pc {i : Instr} (hf : s.fault = .none) (hd : decode s.fetch = .instr i) (hs : step s = .next t)
    (he : exec i s.prepare = .next u) : t.pc = u.pc := by
  cases (step_instr hf hd he).symm.trans hs
  exact (frame_finish u).pc (by simp)

/-- FAULT after a Step is what phase 4 left in it. -/
theorem step_instr_fault {i : Instr} (hf : s.fault = .none) (hd : decode s.fetch = .instr i) (hs : step s = .next t)
    (he : exec i s.prepare = .next u) : t.fault = u.fault := by
  cases (step_instr hf hd he).symm.trans hs
  exact (frame_finish u).fault (by simp)

/-- A Step on an instruction without PC in its frame goes on with the next word. -/
theorem step_instr_pc_of_not_mem {i : Instr} (hf : s.fault = .none) (hd : decode s.fetch = .instr i)
    (hs : step s = .next t) (hi : .pc ∉ touchedParts i) : t.pc.toNat = (s.pc.toNat + 2) % 4096 := by
  rw [(step_instr_frame hf hd hs).pc (by simp [hi])]
  exact mask12_add_two_toNat s.pc

/-- A Step on a conditional skip advances by 4 or by 2, whatever the test itself changed besides PC. -/
theorem step_skip_pc {i : Instr} {cond : Bool} (hf : s.fault = .none) (hd : decode s.fetch = .instr i)
    (hs : step s = .next t) (hu : u.pc = s.prepare.pc) (he : exec i s.prepare = .next (u.skipIf cond)) :
    t.pc.toNat = (s.pc.toNat + if cond = true then 4 else 2) % 4096 := by
  have hnext : u.pc.toNat = (s.pc.toNat + 2) % 4096 := hu ▸ mask12_add_two_toNat s.pc
  rw [step_instr_pc hf hd hs he]
  cases cond with
  | true => rw [u.skipIf_pc_of_true rfl, hnext, if_pos rfl]; omega
  | false => rw [u.skipIf_pc_of_false rfl, hnext]; rfl

/-- A key query answers whether the byte is the number of a key that is pressed (R166, D14). -/
theorem State.isKeyPressed_fst_iff (s : State) (c : Byte) :
    (s.isKeyPressed c).1 = true ↔ ∃ k : Nibble, k.toNat = c.toNat ∧ s.keyAt k = true := by
  have hnumber : ∀ k : Nibble, k.toNat = c.toNat → k = c.setWidth 4 := fun k hk =>
    BitVec.eq_of_toNat_eq (by rw [BitVec.toNat_setWidth, ← hk, Nat.mod_eq_of_lt k.isLt])
  rcases s.isKeyPressed_cases c with ⟨hc, h⟩ | ⟨_, hoff, h⟩ | ⟨hc, hon, h⟩ <;> rw [h]
  · refine iff_of_false Bool.false_ne_true fun ⟨k, hk, _⟩ => ?_
    have := k.isLt
    omega
  · refine iff_of_false Bool.false_ne_true fun ⟨k, hk, hon⟩ => ?_
    rw [hnumber k hk, hoff] at hon
    exact Bool.false_ne_true hon
  · exact iff_of_true rfl ⟨c.setWidth 4, by rw [BitVec.toNat_setWidth]; omega, hon⟩

/-- A key query leaves PC alone. -/
theorem State.isKeyPressed_pc (s : State) (c : Byte) : (s.isKeyPressed c).2.pc = s.pc :=
  (frame_isKeyPressed s c).pc (by simp)

/-- EX9E is a skip after its key query (R160). -/
theorem exec_skpVx (x : Nibble) (s : State) :
    exec (.skpVx x) s = .next ((s.isKeyPressed (s.getV x)).2.skipIf (s.isKeyPressed (s.getV x)).1) := rfl

/-- EXA1 is the inverse skip after the same query (R161). -/
theorem exec_sknpVx (x : Nibble) (s : State) :
    exec (.sknpVx x) s = .next ((s.isKeyPressed (s.getV x)).2.skipIf (!(s.isKeyPressed (s.getV x)).1)) := rfl

/-- A Step on 00EE that does not fault ends at the entry pushed last. -/
theorem step_ret_pc (hf : s.fault = .none) (hd : decode s.fetch = .instr .ret) (hs : step s = .next t)
    (ht : t.fault = .none) : ∃ w rest, s.stack = w :: rest ∧ t.pc.toNat = w.toNat % 4096 := by
  rcases execRet_cases s.prepare with ⟨_, he⟩ | ⟨w, rest, hstack, he⟩
  · cases ht.symm.trans (step_instr_fault hf hd hs he)
  · exact ⟨w, rest, hstack, by rw [step_instr_pc hf hd hs he]; exact mask12_toNat w⟩

/-- A Step on 2NNN that does not fault ends at NNN. -/
theorem step_callNnn_pc {nnn : Addr} (hf : s.fault = .none) (hd : decode s.fetch = .instr (.callNnn nnn))
    (hs : step s = .next t) (ht : t.fault = .none) : t.pc.toNat = nnn.toNat := by
  rcases execCallNnn_cases nnn s.prepare with ⟨_, he⟩ | ⟨_, e, rest, _, he⟩
  · cases ht.symm.trans (step_instr_fault hf hd hs he)
  · rw [step_instr_pc hf hd hs he]
    exact mask12_addrOperand_toNat nnn

/-- The rewind of FX0A undoes the advance of its own Step (R162). -/
theorem mask12_advance_sub_two_toNat {w : Word} (h : w.toNat < 4096) :
    (mask12 (mask12 (w + 2#16) - 2#16)).toNat = w.toNat := by
  rw [mask12_toNat, BitVec.toNat_sub, mask12_add_two_toNat, BitVec.toNat_ofNat]
  omega

/-- A Step on FX0A goes on when a key is pressed and stays where it is when none is (R162). -/
theorem step_ldVxK_pc {x : Nibble} (hf : s.fault = .none) (hpc : s.pc.toNat < 4096)
    (hd : decode s.fetch = .instr (.ldVxK x)) (hs : step s = .next t) :
    t.pc.toNat = if ∃ k, s.keyAt k = true then (s.pc.toNat + 2) % 4096 else s.pc.toNat := by
  rcases execLdVxK_cases x s.prepare with ⟨hoff, he⟩ | ⟨k, hon, _, he⟩
  · have hnone : ¬∃ k, s.keyAt k = true := fun ⟨k, hk⟩ => Bool.false_ne_true ((hoff k).symm.trans hk)
    rw [step_instr_pc hf hd hs he, if_neg hnone]
    exact mask12_advance_sub_two_toNat hpc
  · have hsome : ∃ k, s.keyAt k = true := ⟨k, hon⟩
    rw [step_instr_pc hf hd hs he, if_pos hsome]
    exact mask12_add_two_toNat s.pc

/-- Settles O46: the arms that write PC one by one; every other instruction has no PC in its frame. -/
theorem counterAfterStep : Obligations.CounterAfterStep := by
  intro s t hf hpc hs ht
  cases hd : decode s.fetch with
  | unrecognised op =>
    show t.pc.toNat = (s.pc.toNat + 2) % 4096
    rw [(step_unrecognised_frame hf hd hs).pc (by simp)]
    exact mask12_add_two_toNat s.pc
  | instr i =>
    cases i with
    | ret => exact step_ret_pc hf hd hs ht
    | callNnn nnn => exact step_callNnn_pc hf hd hs ht
    | jpNnn nnn => exact (congrArg _ (step_instr_pc hf hd hs rfl)).trans (mask12_addrOperand_toNat nnn)
    | jpV0Nnn nnn => exact (congrArg _ (step_instr_pc hf hd hs rfl)).trans (mask12_addrOperand_add_toNat nnn _)
    | seVxNn _ _ | seVxVy _ _ =>
      simpa only [beq_iff_eq, State.getV_prepare] using step_skip_pc hf hd hs rfl rfl
    | sneVxNn _ _ | sneVxVy _ _ =>
      simpa only [bne_iff_ne, State.getV_prepare] using step_skip_pc hf hd hs rfl rfl
    | skpVx x =>
      have hskip := step_skip_pc hf hd hs (State.isKeyPressed_pc _ _) (exec_skpVx x s.prepare)
      simpa only [State.isKeyPressed_fst_iff, State.getV_prepare, State.keyAt_prepare] using hskip
    | sknpVx x =>
      have hskip := step_skip_pc hf hd hs (State.isKeyPressed_pc _ _) (exec_sknpVx x s.prepare)
      simpa only [Bool.not_eq_true', ← Bool.not_eq_true, ite_not, State.isKeyPressed_fst_iff, State.getV_prepare,
        State.keyAt_prepare] using hskip
    | ldVxK x => exact step_ldVxK_pc hf hpc hd hs
    | _ => exact step_instr_pc_of_not_mem hf hd hs (by simp [touchedParts])

/-! ### A jump to its own address (R101 corner case, R215) -/

/-- What a Step on a jump to its own address leaves: the timers counted, the per-Step flags and the key flags cleared. -/
def State.idle (s : State) : State :=
  { s with dt := countdown s.dt, st := countdown s.st, du := false, diagValid := false,
           key := Vector.replicate 16 false }

theorem step_jump_to_self {nnn : Addr} (hf : s.fault = .none) (hpc : s.pc.toNat = nnn.toNat)
    (hd : decode s.fetch = .instr (.jpNnn nnn)) : step s = .next s.idle := by
  have htarget : mask12 (addrOperand nnn) = s.pc :=
    BitVec.eq_of_toNat_eq ((mask12_addrOperand_toNat nnn).trans hpc.symm)
  have hfinish : (s.prepare.setPc (addrOperand nnn)).finish = s.idle := by
    rw [State.finish, if_pos (show (s.prepare.setPc (addrOperand nnn)).fault = .none from hf), State.setPc, htarget]
    rfl
  rw [← hfinish]
  exact step_instr hf hd rfl

/-- The word fetched after the Step is the same jump, so every Step of the run is this one. -/
theorem core_run_jump_to_self {nnn : Addr} (hf : s.fault = .none) (hpc : s.pc.toNat = nnn.toNat)
    (hd : decode s.fetch = .instr (.jpNnn nnn)) (n : Nat) : core.run n s = .next (State.idle^[n] s) := by
  induction n generalizing s with
  | zero => rfl
  | succ n ih =>
    rw [core_run_next (step_jump_to_self hf hpc hd), Function.iterate_succ_apply]
    exact ih hf hpc hd

theorem frame_idle (s : State) : Frame [] [.dt, .st, .du, .keys, .diag] s s.idle :=
  { Frame.refl [] [.dt, .st, .du, .keys, .diag] s with
    dt := fun h => absurd (by simp) h
    st := fun h => absurd (by simp) h
    du := fun h => absurd (by simp) h
    keys := fun h => absurd (by simp) h
    diag := fun h => absurd (by simp) h }

theorem frame_idle_iterate (n : Nat) (s : State) :
    Frame [] [.dt, .st, .du, .keys, .diag] s (State.idle^[n] s) := by
  induction n generalizing s with
  | zero => exact .refl _ _ s
  | succ n ih => exact (frame_idle s).trans (ih s.idle)

/-- Countdowns in a row subtract their number, and stop at 0 (R85). -/
theorem countdown_iterate_toNat (n : Nat) (b : Byte) : (countdown^[n] b).toNat = b.toNat - n := by
  induction n generalizing b with
  | zero => rfl
  | succ n ih =>
    rw [Function.iterate_succ_apply, ih, countdown_toNat]
    omega

theorem State.idle_iterate_dt (n : Nat) (s : State) : (State.idle^[n] s).dt = countdown^[n] s.dt :=
  Function.Semiconj.iterate_right (f := State.dt) (fun _ => rfl) n s

theorem State.idle_iterate_st (n : Nat) (s : State) : (State.idle^[n] s).st = countdown^[n] s.st :=
  Function.Semiconj.iterate_right (f := State.st) (fun _ => rfl) n s

/-- After at least one idle Step DU and every key flag are 0, as the last of them left them. -/
theorem State.idle_iterate_cleared {n : Nat} (hn : 0 < n) (s : State) :
    (State.idle^[n] s).du = false ∧ ∀ k, (State.idle^[n] s).keyAt k = false := by
  obtain ⟨m, rfl⟩ := Nat.exists_eq_succ_of_ne_zero hn.ne'
  rw [Function.iterate_succ_apply']
  exact ⟨rfl, State.keyAt_clearKeys (State.idle^[m] s)⟩

/-- Settles O47: the run is the iteration of one idle Step. -/
theorem jumpToSelfOnlyCountsTimers : Obligations.JumpToSelfOnlyCountsTimers := by
  intro nnn s n hf hpc hd
  have hframe := frame_idle_iterate n s
  refine ⟨_, core_run_jump_to_self hf hpc hd n, hframe.pc (by simp), ?_, ?_, fun hn => State.idle_iterate_cleared hn s,
    hframe⟩
  · rw [State.idle_iterate_dt, countdown_iterate_toNat]
  · rw [State.idle_iterate_st, countdown_iterate_toNat]

end Sys2Proof.Machine

namespace Sys2Proof.Machine

/-! ### Flag bytes and wrapped arithmetic (R11, R126 to R130) -/

theorem carryFlag_eq (sum : Nat) : carryFlag sum = if sum > 255 then 1#8 else 0#8 := by
  simp only [carryFlag, flagOf, decide_eq_true_eq]

theorem greaterFlag_eq (a b : Byte) : greaterFlag a b = if a.toNat > b.toNat then 1#8 else 0#8 := by
  simp only [greaterFlag, flagOf, decide_eq_true_eq]

theorem greaterFlag_toNat (a b : Byte) :
    ((greaterFlag a b).toNat : Int) = if a.toNat > b.toNat then 1 else 0 := by
  rw [greaterFlag_eq]
  split <;> rfl

theorem lowBitFlag_toNat (b : Byte) : (lowBitFlag b).toNat = b.toNat % 2 := by
  rw [lowBitFlag, BitVec.toNat_and]
  exact Nat.and_one_is_mod _

/-- The bit shifted down from position 7 is alone, so the AND with 1 changes nothing. -/
theorem highBitFlag_toNat (b : Byte) : (highBitFlag b).toNat = b.toNat / 128 := by
  have hlt := b.isLt
  have hmod : (highBitFlag b).toNat = b.toNat / 128 % 2 := by
    rw [highBitFlag, BitVec.toNat_and, BitVec.toNat_ushiftRight, Nat.shiftRight_eq_div_pow]
    exact Nat.and_one_is_mod _
  omega

theorem shiftRight_one_toNat (b : Byte) : (b >>> 1).toNat = b.toNat / 2 := by
  rw [BitVec.toNat_ushiftRight, Nat.shiftRight_eq_div_pow, pow_one]

theorem shiftLeft_one_toNat (b : Byte) : (b <<< 1).toNat = b.toNat * 2 % 256 := by
  rw [BitVec.toNat_shiftLeft, Nat.shiftLeft_eq, pow_one]

/-- The difference of two bytes is the difference of their numbers modulo 256. -/
theorem byteSub_toNat (a b : Byte) : ((a - b).toNat : Int) = (a.toNat - b.toNat : Int) % 256 := by
  rw [BitVec.toNat_sub]
  omega

/-! ### A flag written before the operands are read (R133, D13) -/

section FlagFirst

variable (s : State)

/-- What a register holds once the flag is in VF. -/
theorem State.getV_setFlag (r : Nibble) (flag : Byte) :
    (s.setV vF flag).getV r = if r = vF then flag else s.getV r := by
  simp only [State.getV_setV, eq_comm]

/-- The flag stays in VF when the result goes to another register. -/
theorem State.getV_vF_of_dest_ne {x : Nibble} (hx : x ≠ vF) (flag b : Byte) :
    ((s.setV vF flag).setV x b).getV vF = flag := by
  rw [State.getV_setV_other _ b hx, State.getV_setV_same]

/-- The shape of 8XY5 and 8XY7: VF says whether VA > VB, then VX is the difference of what VA and VB hold. -/
def State.subWithFlag (x a b : Nibble) : State :=
  let s₁ := s.setV vF (greaterFlag (s.getV a) (s.getV b))
  s₁.setV x (s₁.getV a - s₁.getV b)

theorem State.subWithFlag_vF {x : Nibble} (hx : x ≠ vF) (a b : Nibble) :
    (s.subWithFlag x a b).getV vF = if (s.getV a).toNat > (s.getV b).toNat then 1#8 else 0#8 := by
  rw [State.subWithFlag, State.getV_vF_of_dest_ne s hx, greaterFlag_eq]

/-- An operand of the difference is the new flag where it is VF, and the old content of its register elsewhere. -/
theorem State.subWithFlag_dest (x a b : Nibble) :
    (((s.subWithFlag x a b).getV x).toNat : Int) =
      ((if a = vF then greaterFlag (s.getV a) (s.getV b) else s.getV a).toNat -
        (if b = vF then greaterFlag (s.getV a) (s.getV b) else s.getV b).toNat : Int) % 256 := by
  rw [State.subWithFlag, State.getV_setV_same, byteSub_toNat, State.getV_setFlag, State.getV_setFlag]

theorem State.subWithFlag_self (x a : Nibble) : (s.subWithFlag x a a).getV x = 0#8 := by
  rw [State.subWithFlag, State.getV_setV_same, BitVec.sub_self]

/-- The shape of 8XY6 and 8XYE: the flag into VF, then VY shifted in place, then VX from VY. -/
def State.shiftWithFlag (x y : Nibble) (flag : Byte) (shift : Byte → Byte) : State :=
  let s₁ := s.setV vF flag
  let s₂ := s₁.setV y (shift (s₁.getV y))
  s₂.setV x (s₂.getV y)

variable (x y : Nibble) (flag : Byte) (shift : Byte → Byte)

/-- VY is shifted as the flag write left it, and the copy into VX does not change it, not even where X is Y. -/
theorem State.shiftWithFlag_source :
    (s.shiftWithFlag x y flag shift).getV y = shift (if y = vF then flag else s.getV y) := by
  rw [State.shiftWithFlag, State.getV_setV, State.getV_setV_same, State.getV_setFlag, ite_self]

theorem State.shiftWithFlag_dest :
    (s.shiftWithFlag x y flag shift).getV x = (s.shiftWithFlag x y flag shift).getV y := by
  rw [State.shiftWithFlag_source, State.shiftWithFlag, State.getV_setV_same, State.getV_setV_same,
    State.getV_setFlag]

theorem State.shiftWithFlag_vF {x y : Nibble} (hx : x ≠ vF) (hy : y ≠ vF) :
    (s.shiftWithFlag x y flag shift).getV vF = flag := by
  rw [State.shiftWithFlag, State.getV_setV_other _ _ hx, State.getV_vF_of_dest_ne s hy]

end FlagFirst

/-! ### Phase 4 of the instructions that write a flag -/

section Exec

variable (x y : Nibble) (s : State)

theorem exec_addVxVy : exec (.addVxVy x y) s =
    .next ((s.setV vF (carryFlag ((s.getV x).toNat + (s.getV y).toNat))).setV x
      (BitVec.ofNat 8 ((s.getV x).toNat + (s.getV y).toNat))) := rfl

theorem exec_subVxVy : exec (.subVxVy x y) s = .next (s.subWithFlag x x y) := rfl

theorem exec_subnVxVy : exec (.subnVxVy x y) s = .next (s.subWithFlag x y x) := rfl

theorem exec_shrVxVy : exec (.shrVxVy x y) s =
    .next (s.shiftWithFlag x y (lowBitFlag (s.getV y)) (· >>> 1)) := rfl

theorem exec_shlVxVy : exec (.shlVxVy x y) s =
    .next (s.shiftWithFlag x y (highBitFlag (s.getV y)) (· <<< 1)) := rfl

end Exec

/-- Settles O9: the carry goes to VF, then the sum, taken before either write, to VX. -/
theorem addSetsCarryFlag : Obligations.AddSetsCarryFlag := by
  intro x y s
  refine ⟨_, exec_addVxVy x y s, ?_, fun hx => ?_, exec_frame (exec_addVxVy x y s)⟩
  · rw [State.getV_setV_same, BitVec.toNat_ofNat]
  · rw [State.getV_vF_of_dest_ne s hx, carryFlag_eq]

/-- Settles O10: `State.subWithFlag` for the operands VX, VY, by which of X and Y is F. -/
theorem subtractSetsGreaterFlag : Obligations.SubtractSetsGreaterFlag := by
  intro x y s
  refine ⟨_, exec_subVxVy x y s, exec_frame (exec_subVxVy x y s), fun hx => s.subWithFlag_vF hx _ _,
    fun hx hy => ?_, fun hx hy => ?_, fun hx hy => ?_, fun hx hy => ?_⟩
  · rw [State.subWithFlag_dest, if_neg hx, if_neg hy]
  · rw [State.subWithFlag_dest, if_neg hx, if_pos hy, greaterFlag_toNat, hy]
  · subst hx
    rw [State.subWithFlag_dest, if_pos rfl, if_neg hy, greaterFlag_toNat]
  · subst hx hy
    exact s.subWithFlag_self vF vF

/-- Settles O11: `State.subWithFlag` for the operands VY, VX, by which of X and Y is F. -/
theorem reverseSubtractSetsGreaterFlag : Obligations.ReverseSubtractSetsGreaterFlag := by
  intro x y s
  refine ⟨_, exec_subnVxVy x y s, exec_frame (exec_subnVxVy x y s), fun hx => s.subWithFlag_vF hx _ _,
    fun hx hy => ?_, fun hx hy => ?_, fun hx hy => ?_, fun hx hy => ?_⟩
  · rw [State.subWithFlag_dest, if_neg hx, if_neg hy]
  · rw [State.subWithFlag_dest, if_neg hx, if_pos hy, greaterFlag_toNat, hy]
  · subst hx
    rw [State.subWithFlag_dest, if_pos rfl, if_neg hy, greaterFlag_toNat]
  · subst hx hy
    exact s.subWithFlag_self vF vF

/-- Settles O12: `State.shiftWithFlag` halving; where Y is F it halves the flag, which is at most 1. -/
theorem shiftRightMutatesSource : Obligations.ShiftRightMutatesSource := by
  intro x y s
  refine ⟨_, exec_shrVxVy x y s, exec_frame (exec_shrVxVy x y s), s.shiftWithFlag_dest x y _ _, fun hy => ?_,
    fun hx hy => ?_, fun hy => ?_⟩
  · rw [State.shiftWithFlag_source, if_neg hy, shiftRight_one_toNat]
  · rw [State.shiftWithFlag_vF s _ _ hx hy, lowBitFlag_toNat]
  · subst hy
    rw [State.shiftWithFlag_source, if_pos rfl]
    refine BitVec.eq_of_toNat_eq ?_
    rw [shiftRight_one_toNat, lowBitFlag_toNat, BitVec.toNat_ofNat]
    omega

/-- Settles O13: `State.shiftWithFlag` doubling; where Y is F it doubles the flag, which is at most 1. -/
theorem shiftLeftMutatesSource : Obligations.ShiftLeftMutatesSource := by
  intro x y s
  refine ⟨_, exec_shlVxVy x y s, exec_frame (exec_shlVxVy x y s), s.shiftWithFlag_dest x y _ _, fun hy => ?_,
    fun hx hy => ?_, fun hy => ?_⟩
  · rw [State.shiftWithFlag_source, if_neg hy, shiftLeft_one_toNat]
  · rw [State.shiftWithFlag_vF s _ _ hx hy, highBitFlag_toNat]
  · subst hy
    have hlt := (s.getV vF).isLt
    rw [State.shiftWithFlag_source, if_pos rfl, shiftLeft_one_toNat, highBitFlag_toNat]
    omega

/-! ### The instructions that write VX alone (R120 to R125, R131) -/

/-- Settles O6: the encodings from the fixed fields; one write of VX each. -/
theorem loadImmediateAndMove : Obligations.LoadImmediateAndMove := by
  refine ⟨fun op hT => ?_, fun op hT hN => ?_, fun x nn s => ?_, fun x y s => ?_⟩
  · exact decode_of_encode (formatXNN_of_fields hT)
  · exact decode_of_encode (formatXYN_of_fields hT hN)
  · exact ⟨_, rfl, s.getV_setV_same x nn, frame_setV s x _⟩
  · exact ⟨_, rfl, s.getV_setV_same x _, frame_setV s x _⟩

/-- Settles O7: the encoding from the fixed field; the one write of VX is the sum cut to 8 bits. -/
theorem addImmediateWrapsWithoutFlag : Obligations.AddImmediateWrapsWithoutFlag := by
  refine ⟨fun op hT => decode_of_encode (formatXNN_of_fields hT), fun x nn s => ⟨_, rfl, ?_, frame_setV s x _⟩⟩
  rw [State.getV_setV_same, BitVec.toNat_ofNat]

/-- Settles O8: the encodings from the fixed fields; the one write of VX, bit by bit. -/
theorem logicIsBitwiseWithoutFlag : Obligations.LogicIsBitwiseWithoutFlag := by
  refine ⟨fun op hT hN => ?_, fun op hT hN => ?_, fun op hT hN => ?_, fun x y s => ?_, fun x y s => ?_,
    fun x y s => ?_⟩
  · exact decode_of_encode (formatXYN_of_fields hT hN)
  · exact decode_of_encode (formatXYN_of_fields hT hN)
  · exact decode_of_encode (formatXYN_of_fields hT hN)
  · exact ⟨_, rfl, frame_setV s x _, fun k => by rw [State.getV_setV_same, BitVec.getLsbD_or]⟩
  · exact ⟨_, rfl, frame_setV s x _, fun k => by rw [State.getV_setV_same, BitVec.getLsbD_and]⟩
  · exact ⟨_, rfl, frame_setV s x _, fun k => by rw [State.getV_setV_same, BitVec.getLsbD_xor]⟩

theorem exec_rndVxNn (x : Nibble) (nn : Byte) (s : State) : exec (.rndVxNn x nn) s =
    .next (({ s with draws := s.draws + 1 } : State).setV x (Config.rnd s.draws &&& nn)) := rfl

/-- Settles O14: a clear bit of the mask is clear in the AND, whatever the draw. -/
theorem randomByteIsMaskedDraw : Obligations.RandomByteIsMaskedDraw := by
  intro x nn s
  have hdraw := State.getV_setV_same { s with draws := s.draws + 1 } x (Config.rnd s.draws &&& nn)
  refine ⟨_, exec_rndVxNn x nn s, hdraw, rfl, fun k hk => ?_, exec_frame (exec_rndVxNn x nn s)⟩
  rw [hdraw, BitVec.getLsbD_and, hk, Bool.and_false]

end Sys2Proof.Machine

namespace Sys2Proof.Machine

variable {s t : State}

/-! ### Words masked into I (R12, R63, R146) -/

/-- The sum of FX1E: modulo 4096 (R141). -/
theorem mask12_add_wideOperand_toNat (w : Word) (b : Byte) :
    (mask12 (w + wideOperand b)).toNat = (w.toNat + b.toNat) % 4096 := by
  have := b.isLt
  rw [mask12_toNat, wideOperand, BitVec.toNat_add, BitVec.toNat_setWidth]
  omega

/-- Five times a byte is at most 1275, so the mask leaves a glyph address alone (R142). -/
theorem mask12_glyphAddr_toNat (b : Byte) : (mask12 (glyphAddr b)).toNat = 5 * b.toNat := by
  have := b.isLt
  rw [mask12_toNat, glyphAddr, wideOperand, BitVec.toNat_mul, BitVec.toNat_setWidth, BitVec.toNat_ofNat]
  omega

/-- `EA = (I + k) mod 4096` (R146), for every offset: 4096 divides the range of a word. -/
theorem State.mask12_dataAddr_toNat (s : State) (k : Nat) : (mask12 (s.dataAddr k)).toNat = (s.i.toNat + k) % 4096 := by
  rw [mask12_toNat, State.dataAddr, BitVec.toNat_add, BitVec.toNat_ofNat]
  omega

/-! ### I after an instruction (R140 to R147) -/

/-- Settles O52: each of the five writers of I masks its word; every other instruction has no I in its frame. -/
theorem indexAfterInstruction : Obligations.IndexAfterInstruction := by
  intro i s t h
  cases i with
  | ldINnn nnn => cases h; exact mask12_addrOperand_toNat nnn
  | addIVx x => cases h; exact mask12_add_wideOperand_toNat s.i (s.getV x)
  | ldFVx x => cases h; exact mask12_glyphAddr_toNat (s.getV x)
  | ldMemVx x | ldVxMem x => cases h; exact s.mask12_dataAddr_toNat (x.toNat + 1)
  | _ => exact (exec_frame h).i (by simp [touchedParts])

/-- Settles O23: the encodings from the fixed fields; one write of I each. -/
theorem indexLoads : Obligations.IndexLoads := by
  refine ⟨fun op hT => ?_, fun op hT hNN => ?_, fun nnn s => ?_, fun x s => ?_⟩
  · exact decode_of_encode (formatNNN_of_fields hT)
  · exact decode_of_encode (formatXFF_of_fields hT hNN)
  · exact ⟨_, rfl, indexAfterInstruction (.ldINnn nnn) s _ rfl, frame_setI s _⟩
  · exact ⟨_, rfl, indexAfterInstruction (.ldFVx x) s _ rfl, frame_setI s _⟩

/-- Settles O24: the one write of FX1E is I, so VF is in its frame. -/
theorem indexAddWrapsWithoutFlag : Obligations.IndexAddWrapsWithoutFlag :=
  fun x s => ⟨_, rfl, indexAfterInstruction (.addIVx x) s _ rfl, frame_setI s _⟩

/-! ### The three digits of FX33 (R143) -/

theorem hundreds_toNat (b : Byte) : (hundreds b).toNat = b.toNat / 100 := by
  have := b.isLt
  rw [hundreds, BitVec.toNat_ofNat]
  omega

theorem tens_toNat (b : Byte) : (tens b).toNat = b.toNat / 10 % 10 := by
  rw [tens, BitVec.toNat_ofNat]
  omega

theorem units_toNat (b : Byte) : (units b).toNat = b.toNat % 10 := by
  rw [units, BitVec.toNat_ofNat]
  omega

theorem State.mask12_dataAddr_ne (s : State) {j k : Nat} (hj : j < 4096) (hk : k < 4096) (h : j ≠ k) :
    mask12 (s.dataAddr j) ≠ mask12 (s.dataAddr k) :=
  mt (State.dataAddr_inj hj hk) h

/-- The stores of FX33: the digits of a byte at the first three data addresses. -/
def State.storeDigits (s : State) (b : Byte) : State :=
  ((s.memWrite (s.dataAddr 0) (hundreds b)).memWrite (s.dataAddr 1) (tens b)).memWrite (s.dataAddr 2) (units b)

theorem exec_ldBVx (x : Nibble) (s : State) : exec (.ldBVx x) s = .next (s.storeDigits (s.getV x)) := rfl

section Digits

variable (s : State) (b : Byte)

theorem State.memRead_storeDigits_zero : (s.storeDigits b).memRead (s.dataAddr 0) = hundreds b := by
  have h₂ := s.mask12_dataAddr_ne (j := 2) (k := 0) (by omega) (by omega) (by omega)
  have h₁ := s.mask12_dataAddr_ne (j := 1) (k := 0) (by omega) (by omega) (by omega)
  rw [State.storeDigits, State.memRead_memWrite_other _ _ h₂, State.memRead_memWrite_other _ _ h₁,
    State.memRead_memWrite_same]

theorem State.memRead_storeDigits_one : (s.storeDigits b).memRead (s.dataAddr 1) = tens b := by
  have h₂ := s.mask12_dataAddr_ne (j := 2) (k := 1) (by omega) (by omega) (by omega)
  rw [State.storeDigits, State.memRead_memWrite_other _ _ h₂, State.memRead_memWrite_same]

theorem State.memRead_storeDigits_two : (s.storeDigits b).memRead (s.dataAddr 2) = units b :=
  State.memRead_memWrite_same _ _ _

theorem State.storeDigits_sameMemoryOutside : SameMemoryOutside 3 s.dataAddr s (s.storeDigits b) := by
  intro a h
  rw [State.storeDigits, State.memRead_memWrite_other _ _ (h 2 (by omega)),
    State.memRead_memWrite_other _ _ (h 1 (by omega)), State.memRead_memWrite_other _ _ (h 0 (by omega))]

end Digits

/-- Settles O25: no two of the three data addresses meet, so no digit overwrites another. -/
theorem decimalDigitsStored : Obligations.DecimalDigitsStored := by
  refine ⟨fun op hT hNN => decode_of_encode (formatXFF_of_fields hT hNN), fun x s => ?_⟩
  refine ⟨_, exec_ldBVx x s, ?_, ?_, ?_, fun k _ => s.mask12_dataAddr_toNat k, s.storeDigits_sameMemoryOutside _,
    exec_frame (exec_ldBVx x s)⟩
  · rw [State.memRead_storeDigits_zero, hundreds_toNat]
  · rw [State.memRead_storeDigits_one, tens_toNat]
  · rw [State.memRead_storeDigits_two, units_toNat]

/-! ### Block store and block load (R144, R145) -/

@[simp] theorem regNumber_toNat (r : Nibble) : regNumber r.toNat = r :=
  BitVec.eq_of_toNat_eq (Nat.mod_eq_of_lt r.isLt)

/-- FX55 leaves VK at the data address of its number. -/
theorem memRead_exec_ldMemVx_reg {x k : Nibble} (h : exec (.ldMemVx x) s = .next t) (hk : k.toNat ≤ x.toNat) :
    t.memRead (s.dataAddr k.toNat) = s.getV k := by
  rw [memRead_exec_ldMemVx h hk, regNumber_toNat]

/-- FX65 loads VK from the data address of its number, for K up to X, and leaves the registers above VX. -/
theorem getV_exec_ldVxMem {x : Nibble} (h : exec (.ldVxMem x) s = .next t) (k : Nibble) :
    t.getV k = if k.toNat ≤ x.toNat then s.memRead (s.dataAddr k.toNat) else s.getV k := by
  cases h
  simp only [State.getV_setI, State.getV_loadRegs s x.isLt k, Nat.lt_succ_iff]

/-- Settles O26: the stores of FX55 do not meet one another, and I is written after them. -/
theorem blockStoreWritesRegisters : Obligations.BlockStoreWritesRegisters := by
  intro x s
  obtain ⟨t, h⟩ := exec_next (.ldMemVx x) s
  refine ⟨t, h, fun k hk => memRead_exec_ldMemVx_reg h hk, fun k _ => s.mask12_dataAddr_toNat k,
    indexAfterInstruction _ s t h, fun a ha => ?_, exec_frame h⟩
  cases h
  exact s.memRead_storeRegs_other _ a ha

/-- Settles O27: a register is loaded exactly where its number is at most X. -/
theorem blockLoadReadsRegisters : Obligations.BlockLoadReadsRegisters := by
  refine ⟨fun op hT hNN => decode_of_encode (formatXFF_of_fields hT hNN), fun x s => ?_⟩
  obtain ⟨t, h⟩ := exec_next (.ldVxMem x) s
  refine ⟨t, h, fun k hk => ?_, fun k hk => ?_, fun k _ => s.mask12_dataAddr_toNat k, indexAfterInstruction _ s t h,
    exec_frame h⟩
  · rw [getV_exec_ldVxMem h, if_pos hk]
  · rw [getV_exec_ldVxMem h, if_neg hk.not_ge]

/-- Settles O28: the load reads, at the same I, the data addresses the store wrote. -/
theorem blockStoreThenLoadRestores : Obligations.BlockStoreThenLoadRestores := by
  intro x s t u hstore hmem hi
  obtain ⟨w, hload⟩ := exec_next (.ldVxMem x) u
  refine ⟨w, hload, fun k hk => ?_⟩
  have haddr : u.dataAddr k.toNat = s.dataAddr k.toNat := congrArg (· + BitVec.ofNat 16 k.toNat) hi
  calc w.getV k = u.memRead (u.dataAddr k.toNat) := by rw [getV_exec_ldVxMem hload, if_pos hk]
    _ = t.memRead (s.dataAddr k.toNat) := by rw [haddr, hmem]
    _ = s.getV k := memRead_exec_ldMemVx_reg hstore hk

end Sys2Proof.Machine

namespace Sys2Proof.Machine

variable {s t u : State} {x y n : Nibble}

/-! ### A cell by its column and row of the screen (R17, R151, R157) -/

/-- The sprite position that lies on the pixel `(px, py)`: its distances from the start, around the edges (R152, D10). -/
theorem pixelCell_eq_iff {x0 y0 col row px py : Nat} (hc : col < 64) (hr : row < 32) (hx : px < 64) (hy : py < 32) :
    pixelCell x0 y0 col row = px + 64 * py ↔
      col = (((px : Int) - x0) % 64).toNat ∧ row = (((py : Int) - y0) % 32).toNat := by
  have hcell : pixelCell x0 y0 col row = px + 64 * py ↔ (x0 + col) % 64 = px ∧ (y0 + row) % 32 = py := by
    simp only [pixelCell, Config.fbWidth, Config.fbHeight]
    omega
  have hcol : (x0 + col) % 64 = px ↔ col = (((px : Int) - x0) % 64).toNat := by omega
  have hrow : (y0 + row) % 32 = py ↔ row = (((py : Int) - y0) % 32).toNat := by omega
  rw [hcell, hcol, hrow]

/-- A pixel is toggled exactly when its one sprite position is inside the sprite and its bit is set (R157). -/
theorem pixel_mem_spriteCells_iff {sprite : Nat → Byte} {x0 y0 rows px py : Nat} (hn : rows ≤ 32) (hx : px < 64)
    (hy : py < 32) :
    px + 64 * py ∈ spriteCells sprite x0 y0 rows ↔
      (((px : Int) - x0) % 64).toNat < 8 ∧ (((py : Int) - y0) % 32).toNat < rows ∧
        (sprite (((py : Int) - y0) % 32).toNat).getLsbD (7 - (((px : Int) - x0) % 64).toNat) = true := by
  rw [mem_spriteCells]
  constructor
  · rintro ⟨row, hr, col, hc, hbit, hcell⟩
    obtain ⟨rfl, rfl⟩ := (pixelCell_eq_iff (by omega) (by omega) hx hy).mp hcell
    exact ⟨hc, hr, hbit⟩
  · rintro ⟨hc, hr, hbit⟩
    exact ⟨_, hr, _, hc, hbit, (pixelCell_eq_iff (by omega) (by omega) hx hy).mpr ⟨rfl, rfl⟩⟩

/-! ### DXYN (R151 to R154) -/

/-- The cells a DXYN toggles: the data bytes as a sprite of `N` rows, from the old VX and VY (D12). -/
def State.drawCells (s : State) (x y n : Nibble) : List Nat :=
  spriteCells (fun row => s.memRead (s.dataAddr row)) (s.getV x).toNat (s.getV y).toNat n.toNat

theorem State.drawCells_congr (hmem : ∀ a, u.memRead a = s.memRead a) (hi : u.i = s.i) (hx : u.getV x = s.getV x)
    (hy : u.getV y = s.getV y) : u.drawCells x y n = s.drawCells x y n := by
  simp only [State.drawCells, State.dataAddr, hmem, hi, hx, hy]

/-- What the pixels of a DXYN make of the framebuffer, and whether one of them collided (R151). -/
def State.drawBlit (s : State) (x y n : Nibble) : Blit :=
  Blit.rows (fun row => s.memRead (s.dataAddr row)) (s.getV x).toNat (s.getV y).toNat n.toNat ⟨s.fb, false⟩

theorem exec_drwVxVyN (x y n : Nibble) (s : State) : exec (.drwVxVyN x y n) s =
    .next ((s.setV vF (collisionFlag (s.drawBlit x y n).coll)).setDisplay (s.drawBlit x y n).fb) := rfl

/-- No cell of a DXYN is toggled twice, so each flips at most once and is tested with its old value. -/
theorem State.drawBlit_toggles (s : State) (x y n : Nibble) :
    (∀ q, (s.drawBlit x y n).fb.getLsbD q = (s.fbAt q ^^ decide (q ∈ s.drawCells x y n))) ∧
    (s.drawBlit x y n).coll = (s.drawCells x y n).any s.fbAt := by
  rw [State.drawBlit, Blit.rows_eq]
  exact Blit.foldl_toggle _ (spriteCells_nodup _ _ _ (by omega)) (fun _ => spriteCells_lt) _

/-- The framebuffer after DXYN (R154: "drawing is XOR-based"). -/
theorem fbAt_exec_drwVxVyN (h : exec (.drwVxVyN x y n) s = .next t) (q : Nat) :
    t.fbAt q = (s.fbAt q ^^ decide (q ∈ s.drawCells x y n)) := by
  cases (exec_drwVxVyN x y n s).symm.trans h
  exact (s.drawBlit_toggles x y n).1 q

theorem getV_vF_exec_drwVxVyN (h : exec (.drwVxVyN x y n) s = .next t) :
    t.getV vF = collisionFlag ((s.drawCells x y n).any s.fbAt) := by
  cases (exec_drwVxVyN x y n s).symm.trans h
  rw [State.getV_setDisplay, State.getV_setV_same, (s.drawBlit_toggles x y n).2]

theorem collisionFlag_eq_one_or_zero (coll : Bool) : collisionFlag coll = 1#8 ∨ collisionFlag coll = 0#8 := by
  cases coll <;> decide

theorem collisionFlag_eq_one_iff (coll : Bool) : collisionFlag coll = 1#8 ↔ coll = true := by
  cases coll <;> decide

/-- VF after DXYN tells whether some cell went from 1 to 0: a toggled cell that held 1 is one that went out (R154). -/
theorem exec_drwVxVyN_collision_iff (h : exec (.drwVxVyN x y n) s = .next t) :
    t.getV vF = 1#8 ↔ ∃ k, k < 2048 ∧ s.fbAt k = true ∧ t.fbAt k = false := by
  rw [getV_vF_exec_drwVxVyN h, collisionFlag_eq_one_iff, List.any_eq_true]
  refine exists_congr fun k => ?_
  rw [fbAt_exec_drwVxVyN h]
  constructor
  · rintro ⟨hk, hlit⟩
    exact ⟨spriteCells_lt hk, hlit, by simp [hk, hlit]⟩
  · rintro ⟨_, hlit, hout⟩
    exact ⟨by simpa [hlit] using hout, hlit⟩

/-- Settles O32: each cell flips when it is one of the toggled cells, and a pixel is one by the formula of R157. -/
theorem spriteFormula : Obligations.SpriteFormula := by
  intro x y n s
  obtain ⟨t, h⟩ := exec_next (.drwVxVyN x y n) s
  refine ⟨t, h, fun px py hx hy => ?_, ?_, exec_drwVxVyN_collision_iff h, ?_, exec_frame h⟩
  · have hn : n.toNat ≤ 32 := by omega
    rw [fbAt_exec_drwVxVyN h]
    simp only [State.drawCells, pixel_mem_spriteCells_iff hn hx hy, Bool.decide_and, Bool.decide_eq_true, Bool.and_assoc]
  · rw [getV_vF_exec_drwVxVyN h]
    exact collisionFlag_eq_one_or_zero _
  · cases h
    rfl

/-- Settles O33: both draws toggle the same cells, so the second undoes the first, and a cell it puts out is one that the
first lit. -/
theorem drawingTwiceErases : Obligations.DrawingTwiceErases := by
  intro x y n s t u hst hfb hmem hi hx hy
  obtain ⟨w, huw⟩ := exec_next (.drwVxVyN x y n) u
  have hut : ∀ k, u.fbAt k = t.fbAt k := fun k => by rw [State.fbAt, hfb, State.fbAt]
  have hws : ∀ k, w.fbAt k = s.fbAt k := fun k => by
    rw [fbAt_exec_drwVxVyN huw, State.drawCells_congr hmem hi hx hy, hut, fbAt_exec_drwVxVyN hst, Bool.xor_assoc,
      Bool.xor_self, Bool.xor_false]
  refine ⟨w, huw, BitVec.eq_of_getLsbD_eq fun k _ => hws k, ?_⟩
  rw [exec_drwVxVyN_collision_iff huw]
  simp only [hut, hws, and_comm (a := t.fbAt _ = true)]

/-! ### 00E0 and the display-updated flag (R150, R155) -/

/-- Settles O31: the one word by the encoder (R65); the cleared framebuffer reads 0 everywhere. -/
theorem clearScreen : Obligations.ClearScreen := by
  refine ⟨decode_of_encode rfl, fun op hd => (decode_eq_instr_iff.mp hd).symm, fun s => ⟨_, rfl, fun k _ => ?_, rfl, ?_⟩⟩
  · rw [State.fbAt_setDisplay, BitVec.getLsbD_zero]
  · exact frame_setDisplay s _

/-- 00E0 and DXYN alone may write DU (R18). -/
theorem du_mem_touchedParts {i : Instr} : .du ∈ touchedParts i ↔ i = .cls ∨ ∃ x y n, i = .drwVxVyN x y n := by
  cases i <;> simp [touchedParts]

/-- DU after an instruction that finds it 0, as phase 2 leaves it (R84). -/
theorem exec_du_iff {i : Instr} (hdu : s.du = false) (h : exec i s = .next t) :
    t.du = true ↔ i = .cls ∨ ∃ x y n, i = .drwVxVyN x y n := by
  constructor
  · intro ht
    refine du_mem_touchedParts.mp (by_contra fun hi => ?_)
    have hkept : t.du = s.du := (exec_frame h).du hi
    simp [ht, hdu] at hkept
  · rintro (rfl | ⟨x, y, n, rfl⟩) <;> cases h <;> rfl

/-- Settles O34: phase 2 clears DU, phase 4 sets it for the two drawing instructions alone, phase 5 leaves it. -/
theorem displayFlagMarksDrawing : Obligations.DisplayFlagMarksDrawing := by
  intro s t hf hs
  cases hd : decode s.fetch with
  | unrecognised op =>
    have hdu : t.du = false := (step_unrecognised_frame hf hd hs).du (by simp)
    simp [hdu]
  | instr i =>
    obtain ⟨u, hu⟩ := exec_next i s.prepare
    cases (step_instr hf hd hu).symm.trans hs
    rw [(frame_finish u).du (by simp), exec_du_iff s.prepare_du hu]
    simp only [Decoded.instr.injEq]

end Sys2Proof.Machine

namespace Sys2Proof.Machine

variable {s t u : State} {x : Nibble}

/-! ### Key queries and skips (R160, R161, R166) -/

/-- Below 16 a byte and the key number made of it are the same number (R166). -/
theorem setWidth_eq_iff_toNat_eq {c : Byte} (hc : c.toNat ≤ 15) (k : Nibble) :
    c.setWidth 4 = k ↔ k.toNat = c.toNat := by
  rw [← BitVec.toNat_inj, BitVec.toNat_setWidth]
  omega

/-- A key query leaves every flag as it was but the flag it asks for, which is 0 afterwards (R166, D14). -/
theorem State.keyAt_isKeyPressed (s : State) (c : Byte) (k : Nibble) :
    (s.isKeyPressed c).2.keyAt k = (s.keyAt k && decide (k.toNat ≠ c.toNat)) := by
  rcases s.isKeyPressed_cases c with ⟨hc, h⟩ | ⟨hc, hoff, h⟩ | ⟨hc, _, h⟩ <;> rw [h]
  · have hne : k.toNat ≠ c.toNat := by omega
    simp [hne]
  · by_cases hk : k.toNat = c.toNat
    · simp [← (setWidth_eq_iff_toNat_eq hc k).mpr hk, hoff]
    · simp [hk]
  · by_cases hk : k.toNat = c.toNat <;> simp [State.keyAt_setKey, setWidth_eq_iff_toNat_eq hc, hk]

/-- A key query answers no exactly when no pressed key has the number asked for (R166, D14). -/
theorem State.isKeyPressed_fst_eq_false_iff (s : State) (c : Byte) :
    (s.isKeyPressed c).1 = false ↔ ∀ k : Nibble, k.toNat = c.toNat → s.keyAt k = false := by
  rw [← Bool.not_eq_true, State.isKeyPressed_fst_iff]
  simp

theorem State.keyAt_skipIf (s : State) (cond : Bool) (k : Nibble) : (s.skipIf cond).keyAt k = s.keyAt k :=
  (frame_skipIf s cond).keys (by simp) k

/-- The flags after a key skip: the test's outcome does not matter to them. -/
theorem State.keyAt_isKeyPressed_skipIf (s : State) (c : Byte) (cond : Bool) (k : Nibble) :
    ((s.isKeyPressed c).2.skipIf cond).keyAt k = (s.keyAt k && decide (k.toNat ≠ c.toNat)) := by
  rw [State.keyAt_skipIf, State.keyAt_isKeyPressed]

/-- PC after a key skip whose condition holds. -/
theorem State.isKeyPressed_skipIf_pc_of_true {cond : Bool} (s : State) (c : Byte) (h : cond = true) :
    ((s.isKeyPressed c).2.skipIf cond).pc.toNat = (s.pc.toNat + 2) % 4096 := by
  rw [State.skipIf_pc_of_true _ h, State.isKeyPressed_pc]

/-- PC after a key skip whose condition fails. -/
theorem State.isKeyPressed_skipIf_pc_of_false {cond : Bool} (s : State) (c : Byte) (h : cond = false) :
    ((s.isKeyPressed c).2.skipIf cond).pc = s.pc := by
  rw [State.skipIf_pc_of_false _ h, State.isKeyPressed_pc]

/-- Settles O35: both instructions are one key query, whose answer is the condition of EX9E and the inverse of EXA1's. -/
theorem keySkips : Obligations.KeySkips := by
  refine ⟨fun x s => ⟨_, exec_skpVx x s, exec_frame (exec_skpVx x s), fun hon => ?_, fun hoff => ?_,
    s.keyAt_isKeyPressed_skipIf _ _⟩, fun x s => ⟨_, exec_sknpVx x s, exec_frame (exec_sknpVx x s), fun hon => ?_,
    fun hoff => ?_, s.keyAt_isKeyPressed_skipIf _ _⟩⟩
  · exact s.isKeyPressed_skipIf_pc_of_true _ ((s.isKeyPressed_fst_iff _).mpr hon)
  · exact s.isKeyPressed_skipIf_pc_of_false _ ((s.isKeyPressed_fst_eq_false_iff _).mpr hoff)
  · have hpressed := (s.isKeyPressed_fst_iff _).mpr hon
    exact s.isKeyPressed_skipIf_pc_of_false _ (by rw [hpressed]; rfl)
  · have hreleased := (s.isKeyPressed_fst_eq_false_iff _).mpr hoff
    exact s.isKeyPressed_skipIf_pc_of_true _ (by rw [hreleased]; rfl)

/-! ### The wait for a key (R162) -/

/-- FX0A with no key pressed is a rewind of PC. -/
theorem exec_ldVxK_of_no_key (hoff : ∀ k, s.keyAt k = false) :
    exec (.ldVxK x) s = .next (s.setPc (s.pc - 2#16)) := by
  rcases execLdVxK_cases x s with ⟨_, h⟩ | ⟨k, hon, _, _⟩
  · exact h
  · exact absurd ((hoff k).symm.trans hon) Bool.false_ne_true

/-- FX0A with `k` the lowest pressed key consumes `k` and puts its number in VX. -/
theorem exec_ldVxK_of_lowest_key {k : Nibble} (hon : s.keyAt k = true)
    (hlow : ∀ q : Nibble, q.toNat < k.toNat → s.keyAt q = false) :
    exec (.ldVxK x) s = .next ((s.setKey k false).setV x (k.setWidth 8)) := by
  rcases execLdVxK_cases x s with ⟨hoff, _⟩ | ⟨k', hon', hlow', h⟩
  · exact absurd ((hoff k).symm.trans hon) Bool.false_ne_true
  · have hge : ¬k'.toNat < k.toNat := fun hlt => Bool.false_ne_true ((hlow k' hlt).symm.trans hon')
    have hle : ¬k.toNat < k'.toNat := fun hlt => Bool.false_ne_true ((hlow' k hlt).symm.trans hon)
    have hk : k' = k := BitVec.eq_of_toNat_eq (by omega)
    exact hk ▸ h

/-- PC back by one word: modulo 4096 (R162, D3). -/
theorem mask12_sub_two_toNat (w : Word) : ((mask12 (w - 2#16)).toNat : Int) = ((w.toNat : Int) - 2) % 4096 := by
  rw [mask12_toNat, BitVec.toNat_sub, BitVec.toNat_ofNat]
  omega

theorem setWidth_eight_toNat (k : Nibble) : (k.setWidth 8).toNat = k.toNat := by
  rw [BitVec.toNat_setWidth]
  omega

/-- Settles O36: the premises of its two clauses single out the two outcomes of FX0A. -/
theorem waitForKey : Obligations.WaitForKey := by
  intro x s
  obtain ⟨t, ht⟩ := exec_next (.ldVxK x) s
  refine ⟨t, ht, fun hoff => ?_, fun k hon hlow => ?_⟩
  · cases (exec_ldVxK_of_no_key hoff).symm.trans ht
    exact ⟨mask12_sub_two_toNat s.pc, frame_setPc s _⟩
  · cases (exec_ldVxK_of_lowest_key hon hlow).symm.trans ht
    refine ⟨?_, rfl, fun q => ?_, (frame_setKey s k false).seq (frame_setV _ x _)⟩
    · rw [State.getV_setV_same, setWidth_eight_toNat]
    · rw [State.keyAt_setV, State.keyAt_setKey]
      by_cases hq : k = q <;> simp [hq, eq_comm]

/-- A V register after a Step is what phase 4 left in it. -/
theorem step_instr_getV {i : Instr} (hf : s.fault = .none) (hd : decode s.fetch = .instr i) (hs : step s = .next t)
    (he : exec i s.prepare = .next u) (r : Nibble) : t.getV r = u.getV r := by
  cases (step_instr hf hd he).symm.trans hs
  exact (frame_finish u).regs r (by simp)

/-- A Step on an instruction without FAULT in its frame does not fault. -/
theorem step_instr_fault_of_not_mem {i : Instr} (hf : s.fault = .none) (hd : decode s.fetch = .instr i)
    (hs : step s = .next t) (hi : .fault ∉ touchedParts i) : t.fault = .none :=
  ((step_instr_frame hf hd hs).fault (by simp [hi])).trans hf

/-- Settles O37: PC by `step_ldVxK_pc`, VX by the two outcomes of FX0A in phase 4, the flags by phase 5 (O38). -/
theorem waitForKeyRetries : Obligations.WaitForKeyRetries := by
  intro x s hf hpc hd
  obtain ⟨t, hs⟩ := step_next s
  have htpc := step_ldVxK_pc hf hpc hd hs
  have htf : t.fault = .none := step_instr_fault_of_not_mem hf hd hs (by simp [touchedParts])
  refine ⟨t, hs, ?_, keyFlagsClearedByStep s t hf hs htf, fun hoff => ⟨?_, fun r => ?_⟩, fun k hon hlow => ⟨?_, ?_⟩⟩
  · rw [step_dt hf hs (by simp [hd]), countdown_toNat]
  · rw [if_neg (by simp [hoff])] at htpc
    exact BitVec.eq_of_toNat_eq htpc
  · exact step_instr_getV hf hd hs (exec_ldVxK_of_no_key (s := s.prepare) hoff) r
  · rw [htpc, if_pos ⟨k, hon⟩]
  · rw [step_instr_getV hf hd hs (exec_ldVxK_of_lowest_key (s := s.prepare) hon hlow), State.getV_setV_same,
      setWidth_eight_toNat]

/-! ### What no instruction does (R167) -/

/-- Settles O51: the frame of phase 4, arm by arm. -/
theorem instructionsChangeOnlyTheirOwn : Obligations.InstructionsChangeOnlyTheirOwn :=
  fun _ _ _ => exec_frame

/-- A key skip sets no flag. -/
theorem keyAt_of_isKeyPressed_skipIf {c : Byte} {cond : Bool} {k : Nibble}
    (hk : ((s.isKeyPressed c).2.skipIf cond).keyAt k = true) : s.keyAt k = true := by
  rw [State.keyAt_isKeyPressed_skipIf, Bool.and_eq_true] at hk
  exact hk.1

/-- No instruction sets a key flag: the two key skips and FX0A consume one, every other has no key flag in its frame. -/
theorem keyAt_of_exec {i : Instr} (h : exec i s = .next t) {k : Nibble} (hk : t.keyAt k = true) :
    s.keyAt k = true := by
  cases i with
  | skpVx x =>
    cases (exec_skpVx x s).symm.trans h
    exact keyAt_of_isKeyPressed_skipIf hk
  | sknpVx x =>
    cases (exec_sknpVx x s).symm.trans h
    exact keyAt_of_isKeyPressed_skipIf hk
  | ldVxK x =>
    rcases execLdVxK_cases x s with ⟨_, he⟩ | ⟨k', hon, _, he⟩ <;> cases he.symm.trans h
    · exact hk
    · rw [State.keyAt_setV, State.keyAt_setKey] at hk
      split at hk
      · cases hk
      · exact hk
  | _ => exact ((exec_frame h).keys (by simp [touchedParts]) k).symm.trans hk

theorem keyAt_of_finish {k : Nibble} (hk : s.finish.keyAt k = true) : s.keyAt k = true := by
  rcases s.finish_cases with ⟨_, h⟩ | ⟨_, h⟩ <;> rw [h] at hk
  · exact absurd ((s.keyAt_clearKeys k).symm.trans hk) Bool.false_ne_true
  · exact hk

/-- No Step sets a key flag. -/
theorem keyAt_of_step (hs : step s = .next t) {k : Nibble} (hk : t.keyAt k = true) : s.keyAt k = true := by
  rcases step_cases s with ⟨_, h⟩ | ⟨_, op, _, h⟩ | ⟨_, i, u, _, he, h⟩ <;> cases h.symm.trans hs
  · exact hk
  · exact absurd ((State.keyAt_clearKeys _ k).symm.trans hk) Bool.false_ne_true
  · exact keyAt_of_exec he (keyAt_of_finish hk)

/-- Settles O53, by induction over the Steps of the run. -/
theorem programNeverPressesKeys : Obligations.ProgramNeverPressesKeys := by
  intro n s t k hrun hk
  induction n generalizing s with
  | zero =>
    cases hrun
    exact hk
  | succ n ih =>
    obtain ⟨u, hu⟩ := step_next s
    rw [core_run_next hu] at hrun
    exact keyAt_of_step hu (ih u hrun)

/-! ### Access to the timers (R163, R164, R165) -/

/-- Settles O39: the encodings from the fixed fields, each effect one write of a register or a timer. -/
theorem timerAccess : Obligations.TimerAccess := by
  refine ⟨fun op hT hNN => ?_, fun op hT hNN => ?_, fun op hT hNN => ?_, fun x s => ?_, fun x s => ?_, fun x s => ?_⟩
  · exact decode_of_encode (formatXFF_of_fields hT hNN)
  · exact decode_of_encode (formatXFF_of_fields hT hNN)
  · exact decode_of_encode (formatXFF_of_fields hT hNN)
  · exact ⟨_, rfl, s.getV_setV_same x s.dt, frame_setV s x s.dt⟩
  · exact ⟨_, rfl, rfl, frame_setDt s (s.getV x)⟩
  · exact ⟨_, rfl, rfl, frame_setSt s (s.getV x)⟩

end Sys2Proof.Machine

namespace Sys2Proof.Machine

variable {s t : State} {i : Instr} {nnn : Addr}

/-! ### Taking a stack fault (R171, R172, R178) -/

theorem exec_ret_of_empty (h : s.sp = 0) : exec .ret s = .next (s.raise .stackUnderflow) := by
  rcases execRet_cases s with ⟨_, hr⟩ | ⟨w, rest, hstack, _⟩
  · exact hr
  · simp [State.sp, hstack] at h

theorem exec_callNnn_of_full (h : s.sp = s.stackDepth) : exec (.callNnn nnn) s = .next (s.raise .stackOverflow) := by
  rcases execCallNnn_cases nnn s with ⟨_, hr⟩ | ⟨hlt, _⟩
  · exact hr
  · omega

/-- What a Step changes whose phase 4 raises a fault: phases 1 to 3, then FAULT. -/
theorem frame_prepare_raise (s : State) (f : FaultStatus) :
    Frame [] [.pc, .dt, .st, .du, .fault, .diag] s (s.prepare.raise f) :=
  ((frame_prepare s).seq (frame_raise s.prepare f)).mono (by simp) (by simp)

/-- A Step whose phase 4 raises a fault ends there: phase 5 leaves a faulted state alone (R178). -/
theorem step_of_exec_raise {f : FaultStatus} (hf : s.fault = .none) (hd : decode s.fetch = .instr i)
    (hr : exec i s.prepare = .next (s.prepare.raise f)) (hne : f ≠ .none) :
    step s = .next (s.prepare.raise f) := by
  have hfinish : (s.prepare.raise f).finish = s.prepare.raise f := if_neg hne
  rw [step_instr hf hd hr, hfinish]

/-- The fault entry, the same for both conditions: what a Step leaves whose phase 4 raises a fault. -/
theorem step_fault_entry {f : FaultStatus} (hf : s.fault = .none) (hd : decode s.fetch = .instr i)
    (hr : exec i s.prepare = .next (s.prepare.raise f)) (hne : f ≠ .none) :
    ∃ t, step s = .next t ∧ t.fault = f ∧ t.fault.code = f.code ∧
      t.pc.toNat = (s.pc.toNat + 2) % 4096 ∧ t.dt.toNat = s.dt.toNat - 1 ∧ t.st.toNat = s.st.toNat - 1 ∧
      t.du = false ∧ t.diagValid = false ∧ t.diagOpcode = s.diagOpcode ∧
      Frame [] [.pc, .dt, .st, .du, .fault, .diag] s t :=
  ⟨s.prepare.raise f, step_of_exec_raise hf hd hr hne, rfl, rfl, mask12_add_two_toNat s.pc, countdown_toNat s.dt,
    countdown_toNat s.st, rfl, rfl, rfl, frame_prepare_raise s f⟩

/-- Settles O20: each condition makes its instruction raise its fault, for phases 1 to 3 leave the stack alone. -/
theorem stackFaultEntry : Obligations.StackFaultEntry := by
  refine ⟨fun s hf hd hempty => ?_, fun s nnn hf hd hfull => ?_⟩
  · exact step_fault_entry hf hd (exec_ret_of_empty (s := s.prepare) hempty) (by simp)
  · exact step_fault_entry hf hd (exec_callNnn_of_full (s := s.prepare) hfull) (by simp)

/-! ### Nothing else raises (R170, R177) -/

/-- 00EE and 2NNN alone may write FAULT (R170). -/
theorem fault_mem_touchedParts : .fault ∈ touchedParts i ↔ i = .ret ∨ ∃ nnn, i = .callNnn nnn := by
  cases i <;> simp [touchedParts]

/-- A Step that sets FAULT fetched a 00EE or a 2NNN. -/
theorem decode_of_step_fault (hf : s.fault = .none) (hs : step s = .next t) (ht : t.fault ≠ .none) :
    decode s.fetch = .instr .ret ∨ ∃ nnn, decode s.fetch = .instr (.callNnn nnn) := by
  cases hd : decode s.fetch with
  | unrecognised op => exact absurd (((step_unrecognised_frame hf hd hs).fault (by simp)).trans hf) ht
  | instr i =>
    have hmem : .fault ∈ touchedParts i := by
      by_contra hi
      exact ht (step_instr_fault_of_not_mem hf hd hs hi)
    simpa using fault_mem_touchedParts.mp hmem

/-- A 00EE that sets FAULT found the stack empty (R171). -/
theorem step_ret_fault (hf : s.fault = .none) (hd : decode s.fetch = .instr .ret) (hs : step s = .next t)
    (ht : t.fault ≠ .none) : s.sp = 0 ∧ t.fault = .stackUnderflow := by
  rcases execRet_cases s.prepare with ⟨hempty, he⟩ | ⟨_, _, _, he⟩
  · exact ⟨hempty, step_instr_fault hf hd hs he⟩
  · exact absurd ((step_instr_fault hf hd hs he).trans hf) ht

/-- A 2NNN that sets FAULT found the stack full (R172). -/
theorem step_callNnn_fault (hf : s.fault = .none) (hd : decode s.fetch = .instr (.callNnn nnn)) (hs : step s = .next t)
    (ht : t.fault ≠ .none) : s.sp = s.stackDepth ∧ t.fault = .stackOverflow := by
  rcases execCallNnn_cases nnn s.prepare with ⟨hfull, he⟩ | ⟨_, _, _, _, he⟩
  · exact ⟨hfull, step_instr_fault hf hd hs he⟩
  · exact absurd ((step_instr_fault hf hd hs he).trans hf) ht

/-- Settles O21: FAULT is in the frame of two instructions alone, and each of them writes it in one case alone. -/
theorem onlyStackLimitsFault : Obligations.OnlyStackLimitsFault := by
  intro s t hf hs ht
  rcases decode_of_step_fault hf hs ht with hd | ⟨nnn, hd⟩
  · exact .inl ⟨hd, step_ret_fault hf hd hs ht⟩
  · exact .inr ⟨nnn, hd, step_callNnn_fault hf hd hs ht⟩

/-! ### KeyEvent (R187, R188) -/

/-- The byte of a key number sets that key's flag. -/
theorem State.hostKeyEvent_key (s : State) (k : Nibble) :
    s.hostKeyEvent (k.setWidth 8) = (.silent, s.setKey k true) := by
  have hle : (k.setWidth 8).toNat ≤ 15 := by rw [setWidth_eight_toNat]; omega
  have hnumber : (k.setWidth 8).setWidth 4 = k := (setWidth_eq_iff_toNat_eq hle k).mpr (setWidth_eight_toNat k).symm
  rw [State.hostKeyEvent, if_pos hle, hnumber]

/-- The bytes between the key numbers and the exit byte are ignored. -/
theorem State.hostKeyEvent_ignored (s : State) {b : Byte} (hlow : 16 ≤ b.toNat) (hhigh : b.toNat ≤ 254) :
    s.hostKeyEvent b = (.silent, s) := by
  have hexit : b ≠ 0xFF#8 := by
    rintro rfl
    simp at hhigh
  rw [State.hostKeyEvent, if_neg (by omega), if_neg hexit]

/-- Settles O60: the three ranges of the byte are the three branches of KeyEvent. -/
theorem keyEventSetsOneFlag : Obligations.KeyEventSetsOneFlag := by
  refine ⟨fun s k => ⟨s.setKey k true, s.hostKeyEvent_key k, ?_, fun q hq => ?_, frame_setKey s k true⟩,
    fun s => rfl, fun s b => s.hostKeyEvent_ignored⟩
  · rw [State.keyAt_setKey, if_pos rfl]
  · rw [State.keyAt_setKey, if_neg hq.symm]

end Sys2Proof.Machine

namespace Sys2Proof.Machine

variable {s t : State}

/-! ### The delay timer over a run (R85, R207) -/

/-- A run without FX15 and without a fault counts the delay timer down once a Step. -/
theorem core_run_dt {n : Nat} (h : LeavesDelayTimer n s) :
    ∃ t, core.run n s = .next t ∧ t.dt = countdown^[n] s.dt := by
  induction n generalizing s with
  | zero => exact ⟨s, rfl, rfl⟩
  | succ n ih =>
    obtain ⟨hf, hn, hrest⟩ := h
    obtain ⟨u, hu⟩ := step_next s
    obtain ⟨t, ht, hdt⟩ := ih (hrest u hu)
    refine ⟨t, (core_run_next hu n).trans ht, ?_⟩
    rw [hdt, step_dt hf hu hn, Function.iterate_succ_apply]

/-- Settles O41: the run is `n` countdowns, and an FX07 reads the timer after one more. -/
theorem delayTimerRunsDown : Obligations.DelayTimerRunsDown := by
  intro n s h
  obtain ⟨t, ht, hdt⟩ := core_run_dt h
  have hleft : t.dt.toNat = s.dt.toNat - n := by rw [hdt, countdown_iterate_toNat]
  refine ⟨t, ht, hleft, fun x u hf hd hs => ?_⟩
  rw [step_ldVxDt_getV hf hs hd, countdown_toNat, hleft, Nat.sub_sub]

/-! ### Load (R202, R203) -/

/-- An image that fits is copied from 512 on (R202). -/
theorem State.hostLoad_of_le (s : State) {bytes : List Byte} (h : bytes.length ≤ 3584) :
    s.hostLoad bytes = (.ok, s.storeBytes 512#16 bytes) := if_pos h

/-- An image that does not fit is refused and writes nothing (R203, D23). -/
theorem State.hostLoad_of_gt (s : State) {bytes : List Byte} (h : 3584 < bytes.length) :
    s.hostLoad bytes = (.outOfSpace, s) := if_neg h.not_ge

/-- Load answers `Ok` for the images that fit, and for them alone. -/
theorem State.hostLoad_eq_ok_iff {bytes : List Byte} :
    s.hostLoad bytes = (.ok, t) ↔ bytes.length ≤ 3584 ∧ s.storeBytes 512#16 bytes = t := by
  rcases Nat.lt_or_ge 3584 bytes.length with h | h
  · simp [State.hostLoad_of_gt s h, h]
  · simp [State.hostLoad_of_le s h, h]

/-- Settles O58: the refused image is the second branch of Load. -/
theorem oversizeLoadWritesNothing : Obligations.OversizeLoadWritesNothing :=
  fun s _ h => ⟨s.hostLoad_of_gt h, rfl⟩

/-- The byte at an address of the machine is what a read of that address as a word gives. -/
theorem State.memRead_ofNat (s : State) {a : Nat} (h : a < 4096) :
    s.memRead (BitVec.ofNat 16 a) = Memory.read s.font s.mem a := by
  rw [State.memRead_eq, BitVec.toNat_ofNat]
  congr 1
  omega

/-- No byte of an image that fits falls outside its own range: 512 + 3584 is the end of memory (R202). -/
theorem mask12_image_ne {n k a : Nat} (hn : n ≤ 3584) (hk : k < n) (ha : a < 512 ∨ 512 + n ≤ a) (hlt : a < 4096) :
    mask12 (512#16 + BitVec.ofNat 16 k) ≠ mask12 (BitVec.ofNat 16 a) := by
  rw [← BitVec.ofNat_add, Ne, mask12_eq_iff, BitVec.toNat_ofNat, BitVec.toNat_ofNat]
  omega

/-- Settles O57: what `State.storeBytes` stores at 512 and on, and what it leaves alone. -/
theorem loadCopiesImage : Obligations.LoadCopiesImage := by
  intro s bytes hlen
  refine ⟨_, s.hostLoad_of_le hlen, fun k hk => ?_, fun a ha hlt => ?_, frame_storeBytes s _ _, ?_⟩
  · rw [← State.memRead_ofNat _ (by omega), BitVec.ofNat_add]
    exact State.memRead_storeBytes_stored s _ bytes (by omega) hk
  · rw [← State.memRead_ofNat _ hlt, ← State.memRead_ofNat _ hlt]
    exact State.memRead_storeBytes_other s _ bytes _ fun k hk => mask12_image_ne hlen hk ha hlt
  · rintro rfl
    rfl

/-- The word fetched after a copy to where PC points is the image's first two bytes, the high byte first (R45, R82). -/
theorem State.fetch_storeBytes_pc (s : State) (hi lo : Byte) {rest : List Byte} (h : rest.length + 2 ≤ 4096) :
    (s.storeBytes s.pc (hi :: lo :: rest)).fetch = wordOfBytes hi lo := by
  have hpc : (s.storeBytes s.pc (hi :: lo :: rest)).pc = s.pc := (frame_storeBytes s _ _).pc (by simp)
  have hbyte := fun k => State.memRead_storeBytes_stored s s.pc (hi :: lo :: rest) (k := k) h
  have hhi : (s.storeBytes s.pc (hi :: lo :: rest)).memRead s.pc = hi :=
    (congrArg _ (BitVec.add_zero s.pc).symm).trans (hbyte 0 (by simp))
  have hlo : (s.storeBytes s.pc (hi :: lo :: rest)).memRead (s.pc + 1#16) = lo := hbyte 1 (by simp)
  rw [State.fetch, hpc, hhi, hlo]

/-- Settles O59: Reset clears FAULT and points PC at 512, where Load puts the image and touches neither. -/
theorem firstFetchIsTheImage : Obligations.FirstFetchIsTheImage := by
  intro s t hi lo rest hload
  obtain ⟨hlen, rfl⟩ := State.hostLoad_eq_ok_iff.mp hload
  have hframe := frame_storeBytes s.hostReset 512#16 (hi :: lo :: rest)
  have hpc : (s.hostReset.storeBytes 512#16 (hi :: lo :: rest)).pc = 512#16 := hframe.pc (by simp)
  exact ⟨hframe.fault (by simp), congrArg BitVec.toNat hpc,
    s.hostReset.fetch_storeBytes_pc hi lo (hlen.trans (by decide))⟩

end Sys2Proof.Machine
